-- ==== Sys2Proof/Word.lean ====
section
/-! DEFINITION. The machine's sole native datum, a 16-bit word (spec 00 R6, R11). -/

namespace Sys2Proof

/-- A Word: 16 bits, unsigned (00 R6, R11). Addresses are words too: the machine is word-addressed. -/
abbrev Word := BitVec 16

end Sys2Proof
end

