-- ==== Sys2Proof/Machine/Numbers.lean ====
section
/-! DEFINITION. The readings of a word as a number and the reduction to a word (spec 00 R8). Every computation is done on
mathematical integers and reduced at the end. -/

namespace Sys2Proof.Machine

/-- `u(v)`, the unsigned reading, in 0 to 65535 (00 R8). -/
def unsignedOf (v : Word) : Nat := v.toNat

/-- `s(v)`, the two's-complement signed reading (00 R8). -/
def signedOf (v : Word) : Int := if v.toNat < 0x8000 then v.toNat else (v.toNat : Int) - 0x10000

/-- `trunc16(n)`: `n mod 2^16`, as a word (00 R8). -/
def trunc16 (n : Int) : Word := BitVec.ofInt 16 n

/-- A natural number reduced to a word (00 R8). -/
def truncNat (n : Nat) : Word := BitVec.ofNat 16 n

end Sys2Proof.Machine
end

