-- ==== Sys2Proof/Machine/Flags.lean ====
section
/-! DEFINITION. What each instruction writes to EX, the only status register (spec 10 R27, 41 R172 to R180, 42 R214 to
R216). There are no condition codes (10 R28). -/

namespace Sys2Proof.Machine

/-- EX after ADD: the carry (41 R172). -/
def exAdd (b a : Word) : Word := if unsignedOf b + unsignedOf a > 0xFFFF then 0x0001 else 0x0000

/-- EX after SUB: 0xFFFF on underflow (41 R173). -/
def exSub (b a : Word) : Word := if (unsignedOf b : Int) - unsignedOf a < 0 then 0xFFFF else 0x0000

/-- EX after MUL: bits 31 to 16 of the product (41 R174). -/
def exMul (b a : Word) : Word := truncNat ((unsignedOf b * unsignedOf a) >>> (16 : Nat))

/-- EX after MLI: bits 31 to 16 of the signed product (41 R175). -/
def exMli (b a : Word) : Word := trunc16 ((signedOf b * signedOf a) >>> (16 : Nat))

/-- EX after DIV: the fractional part, 0 on division by zero (41 R176). -/
def exDiv (b a : Word) : Word :=
  if unsignedOf a = 0 then 0x0000 else truncNat (unsignedOf b * 0x10000 / unsignedOf a)

/-- EX after DVI: as DIV, signed, truncated toward zero (41 R177). -/
def exDvi (b a : Word) : Word :=
  if unsignedOf a = 0 then 0x0000 else trunc16 (Int.tdiv (signedOf b * 0x10000) (signedOf a))

/-- EX after ADX: 1 on overflow (41 R179). -/
def exAdx (b a ex : Word) : Word :=
  if unsignedOf b + unsignedOf a + unsignedOf ex > 0xFFFF then 0x0001 else 0x0000

/-- The sum that SBX computes: b less a plus EX, EX read unsigned (41 R180). -/
def sbxSum (b a ex : Word) : Int := (unsignedOf b : Int) - unsignedOf a + unsignedOf ex

/-- EX after SBX: 0xFFFF on underflow, 1 on overflow (41 R180). -/
def exSbx (b a ex : Word) : Word :=
  if sbxSum b a ex < 0 then 0xFFFF else if sbxSum b a ex > 0xFFFF then 0x0001 else 0x0000

/-- EX after SHR: the bits shifted out, at the top (42 R214). The amount is the whole of a (42 R210). -/
def exShr (b a : Word) : Word := truncNat ((unsignedOf b * 0x10000) >>> unsignedOf a)

/-- EX after ASR: as SHR, b read signed, the floor shift (42 R215). -/
def exAsr (b a : Word) : Word := trunc16 ((signedOf b * 0x10000) >>> unsignedOf a)

/-- EX after SHL: the bits shifted out of the top (42 R216). -/
def exShl (b a : Word) : Word := truncNat ((unsignedOf b <<< unsignedOf a) / 0x10000)

end Sys2Proof.Machine
end

