-- ==== Sys2Proof/Syntax.lean ====
section
/-! DEFINITION. The instructions: one constructor per row of spec/opcode_table.json, over the operand classes of 30 R92.
The operand next words are no part of an instruction: the machine reads them at PC while it runs (40 R134 to R137). -/

namespace Sys2Proof

/-- The eight general registers, in the order of the operand encoding (30 R92). -/
inductive GReg where
  | a | b | c | x | y | z | i | j
  deriving DecidableEq, Repr

/-- The two instruction formats (30 R91). -/
inductive Form where
  | basic
  | special
  deriving DecidableEq, Repr

/-- An operand class (30 R92). Class 0x18 is `push` in position b and `pop` in position a (30 R94); a short literal
exists in position a only (30 R93). -/
inductive Operand where
  /-- 0x00 to 0x07: a register. -/
  | reg (r : GReg)
  /-- 0x08 to 0x0f: `[register]`. -/
  | indirect (r : GReg)
  /-- 0x10 to 0x17: `[next_word + register]`. -/
  | indexed (r : GReg)
  /-- 0x18 in b: `[--SP]`. -/
  | push
  /-- 0x18 in a: `[SP++]`. -/
  | pop
  /-- 0x19: `[SP]`. -/
  | peek
  /-- 0x1a: `[SP + next_word]`. -/
  | pick
  /-- 0x1b: SP. -/
  | sp
  /-- 0x1c: PC. -/
  | pc
  /-- 0x1d: EX. -/
  | ex
  /-- 0x1e: `[next_word]`. -/
  | nextIndirect
  /-- 0x1f: the next word as a literal. -/
  | nextLiteral
  /-- 0x20 + `n`: the short literal `n - 1`, from -1 to 30 (a only). -/
  | short (n : BitVec 5)
  deriving DecidableEq, Repr

/-- The instructions (30 R98 and R99). A basic instruction has destination `b` and source `a`; a special one has `a`
only (30 R91). -/
inductive Instr where
  | set (b a : Operand)
  | add (b a : Operand)
  | sub (b a : Operand)
  | mul (b a : Operand)
  | mli (b a : Operand)
  | div (b a : Operand)
  | dvi (b a : Operand)
  | mod (b a : Operand)
  | and (b a : Operand)
  | bor (b a : Operand)
  | xor (b a : Operand)
  | shr (b a : Operand)
  | asr (b a : Operand)
  | shl (b a : Operand)
  | sti (b a : Operand)
  | ifb (b a : Operand)
  | ifc (b a : Operand)
  | ife (b a : Operand)
  | ifn (b a : Operand)
  | ifg (b a : Operand)
  | ifa (b a : Operand)
  | ifl (b a : Operand)
  | ifu (b a : Operand)
  | adx (b a : Operand)
  | sbx (b a : Operand)
  | jsr (a : Operand)
  | hcf (a : Operand)
  | int (a : Operand)
  | iag (a : Operand)
  | ias (a : Operand)
  | hwn (a : Operand)
  | hwq (a : Operand)
  | hwi (a : Operand)
  deriving DecidableEq, Repr

end Sys2Proof
end

