-- ==== Sys2Proof/WellFormed.lean ====
section
/-! DEFINITION. Which instructions an encoding exists for: a short literal and POP stand in position a only, PUSH in
position b only (spec 30 R93, R94). Every other operand is legal in both positions (30 R101). -/

namespace Sys2Proof

/-- The operand can stand in position a: every class but PUSH (30 R92, R94). -/
def Operand.okA : Operand → Bool
  | .push => false
  | _ => true

/-- The operand can stand in position b: every class but POP and the short literals (30 R93, R94). -/
def Operand.okB : Operand → Bool
  | .pop => false
  | .short _ => false
  | _ => true

/-- The operands of the instruction, b first; a special instruction has no b (30 R91). -/
def Instr.operands : Instr → Option Operand × Operand
  | .set b a => (some b, a)
  | .add b a => (some b, a)
  | .sub b a => (some b, a)
  | .mul b a => (some b, a)
  | .mli b a => (some b, a)
  | .div b a => (some b, a)
  | .dvi b a => (some b, a)
  | .mod b a => (some b, a)
  | .and b a => (some b, a)
  | .bor b a => (some b, a)
  | .xor b a => (some b, a)
  | .shr b a => (some b, a)
  | .asr b a => (some b, a)
  | .shl b a => (some b, a)
  | .sti b a => (some b, a)
  | .ifb b a => (some b, a)
  | .ifc b a => (some b, a)
  | .ife b a => (some b, a)
  | .ifn b a => (some b, a)
  | .ifg b a => (some b, a)
  | .ifa b a => (some b, a)
  | .ifl b a => (some b, a)
  | .ifu b a => (some b, a)
  | .adx b a => (some b, a)
  | .sbx b a => (some b, a)
  | .jsr a => (none, a)
  | .hcf a => (none, a)
  | .int a => (none, a)
  | .iag a => (none, a)
  | .ias a => (none, a)
  | .hwn a => (none, a)
  | .hwq a => (none, a)
  | .hwi a => (none, a)

/-- Each operand stands in a position that its class exists in. -/
def Instr.wf (i : Instr) : Bool :=
  (match i.operands.1 with
    | some b => b.okB
    | none => true) && i.operands.2.okA

end Sys2Proof
end

