-- ==== Sys2Proof/Decode.lean ====
section
/-! DEFINITION. The instruction word `aaaaaabbbbbooooo` (spec 30 R90): its fields, the operand classes (30 R92), the two
opcode maps (30 R98, R99), the illegal encodings (30 R100), the instruction length (30 R97), and the encoder. -/

namespace Sys2Proof

/-- Field a, bits 15 to 10 (30 R90). -/
def fieldA (w : Word) : BitVec 6 := w.extractLsb' 10 6

/-- Field b, bits 9 to 5 (30 R90). -/
def fieldB (w : Word) : BitVec 5 := w.extractLsb' 5 5

/-- Field o, bits 4 to 0 (30 R90). -/
def fieldO (w : Word) : BitVec 5 := w.extractLsb' 0 5

/-- REG(0..7) = A, B, C, X, Y, Z, I, J (30 R92). -/
def GReg.ofBits (n : BitVec 3) : GReg :=
  match n.toNat with
  | 0 => .a
  | 1 => .b
  | 2 => .c
  | 3 => .x
  | 4 => .y
  | 5 => .z
  | 6 => .i
  | _ => .j

/-- The low five bits of an operand class, where class 0x18 is the operand `stack` of its position (30 R92, R94). -/
def operandLow (stack : Operand) (c : BitVec 5) : Operand :=
  match c.toNat with
  | 0x18 => stack
  | 0x19 => .peek
  | 0x1a => .pick
  | 0x1b => .sp
  | 0x1c => .pc
  | 0x1d => .ex
  | 0x1e => .nextIndirect
  | 0x1f => .nextLiteral
  | _ =>
    match (c.extractLsb' 3 2).toNat with
    | 0 => .reg (GReg.ofBits (c.extractLsb' 0 3))
    | 1 => .indirect (GReg.ofBits (c.extractLsb' 0 3))
    | _ => .indexed (GReg.ofBits (c.extractLsb' 0 3))

/-- Operand b: the 32 classes of the 5-bit field; 0x18 is PUSH (30 R92, R94). -/
def operandB (c : BitVec 5) : Operand := operandLow .push c

/-- Operand a: the 64 classes of the 6-bit field; 0x18 is POP, 0x20 to 0x3f are short literals (30 R92, R93, R94). -/
def operandA (c : BitVec 6) : Operand :=
  if c.getLsbD 5 then .short (c.extractLsb' 0 5) else operandLow .pop (c.extractLsb' 0 5)

/-- An encoding with no row in the opcode maps: its form and its code, o or b (30 R100). -/
structure IllegalOpcode where
  form : Form
  code : BitVec 5
  deriving DecidableEq, Repr

/-- The basic opcode map (30 R98); any other code is illegal (30 R100). -/
def decodeBasic (o : BitVec 5) (b a : Operand) : Except IllegalOpcode Instr :=
  match o.toNat with
  | 0x01 => .ok (.set b a)
  | 0x02 => .ok (.add b a)
  | 0x03 => .ok (.sub b a)
  | 0x04 => .ok (.mul b a)
  | 0x05 => .ok (.mli b a)
  | 0x06 => .ok (.div b a)
  | 0x07 => .ok (.dvi b a)
  | 0x08 => .ok (.mod b a)
  | 0x09 => .ok (.and b a)
  | 0x0a => .ok (.bor b a)
  | 0x0b => .ok (.xor b a)
  | 0x0c => .ok (.shr b a)
  | 0x0d => .ok (.asr b a)
  | 0x0e => .ok (.shl b a)
  | 0x0f => .ok (.sti b a)
  | 0x10 => .ok (.ifb b a)
  | 0x11 => .ok (.ifc b a)
  | 0x12 => .ok (.ife b a)
  | 0x13 => .ok (.ifn b a)
  | 0x14 => .ok (.ifg b a)
  | 0x15 => .ok (.ifa b a)
  | 0x16 => .ok (.ifl b a)
  | 0x17 => .ok (.ifu b a)
  | 0x1a => .ok (.adx b a)
  | 0x1b => .ok (.sbx b a)
  | _ => .error ⟨.basic, o⟩

/-- The special opcode map (30 R99); any other code is illegal (30 R100). -/
def decodeSpecial (code : BitVec 5) (a : Operand) : Except IllegalOpcode Instr :=
  match code.toNat with
  | 0x01 => .ok (.jsr a)
  | 0x07 => .ok (.hcf a)
  | 0x08 => .ok (.int a)
  | 0x09 => .ok (.iag a)
  | 0x0a => .ok (.ias a)
  | 0x10 => .ok (.hwn a)
  | 0x11 => .ok (.hwq a)
  | 0x12 => .ok (.hwi a)
  | _ => .error ⟨.special, code⟩

/-- The format of an instruction word: special exactly when field o is 0 (30 R91). -/
def formOf (w : Word) : Form := if fieldO w = 0 then .special else .basic

/-- The opcode of an instruction word: field o of a basic one, field b of a special one (30 R91). -/
def opOf (w : Word) : BitVec 5 := if fieldO w = 0 then fieldB w else fieldO w

/-- The instruction that a form, an opcode and the two operand fields stand for (30 R91). -/
def decodeFields (form : Form) (op : BitVec 5) (fa : BitVec 6) (fb : BitVec 5) : Except IllegalOpcode Instr :=
  match form with
  | .basic => decodeBasic op (operandB fb) (operandA fa)
  | .special => decodeSpecial op (operandA fa)

/-- The decoder: every word is a basic instruction, a special instruction or an illegal encoding (30 R101). -/
def decode (w : Word) : Except IllegalOpcode Instr :=
  decodeFields (formOf w) (opOf w) (fieldA w) (fieldB w)

/-- The operand's class is in EXT: it needs a next word (30 R95). -/
def Operand.needsWord : Operand → Bool
  | .indexed _ => true
  | .pick => true
  | .nextIndirect => true
  | .nextLiteral => true
  | _ => false

/-- `ext(c)`: 1 for an operand that needs a next word, else 0 (30 R95). -/
def Operand.ext (o : Operand) : Nat := if o.needsWord then 1 else 0

/-- `length(w)`, the number of words of the instruction that starts with `w`, told from `w` alone, an illegal one's too
(30 R97, 43 R250). -/
def lengthOf (w : Word) : Nat :=
  1 + (operandA (fieldA w)).ext + (if fieldO w = 0 then 0 else (operandB (fieldB w)).ext)

/-- The word is in the IFx class, basic opcodes 0x10 to 0x17 (30 R102). -/
def isIfWord (w : Word) : Bool := 0x10 ≤ (fieldO w).toNat && (fieldO w).toNat ≤ 0x17

/-- The 3-bit number of a general register (30 R92). -/
def GReg.bits : GReg → BitVec 3
  | .a => 0
  | .b => 1
  | .c => 2
  | .x => 3
  | .y => 4
  | .z => 5
  | .i => 6
  | .j => 7

/-- The low five bits of the operand's class (30 R92). -/
def Operand.low : Operand → BitVec 5
  | .reg r => 0#2 ++ r.bits
  | .indirect r => 1#2 ++ r.bits
  | .indexed r => 2#2 ++ r.bits
  | .push => 0x18
  | .pop => 0x18
  | .peek => 0x19
  | .pick => 0x1a
  | .sp => 0x1b
  | .pc => 0x1c
  | .ex => 0x1d
  | .nextIndirect => 0x1e
  | .nextLiteral => 0x1f
  | .short n => n

/-- The class of an operand in position a: bit 5 is set for a short literal only (30 R92, R93). -/
def Operand.classA : Operand → BitVec 6
  | .short n => 1#1 ++ n
  | o => 0#1 ++ o.low

/-- The word with the given fields (30 R90). -/
def packWord (fa : BitVec 6) (fb fo : BitVec 5) : Word := fa ++ fb ++ fo

/-- The word of a basic instruction (30 R91, R98). -/
def encodeBasic (o : BitVec 5) (b a : Operand) : Word := packWord a.classA b.low o

/-- The word of a special instruction (30 R91, R99). -/
def encodeSpecial (code : BitVec 5) (a : Operand) : Word := packWord a.classA code 0

/-- The encoder: the instruction word of an instruction (30 R90, R98, R99). Its next words, if any, follow it in memory
and are no part of `Instr`. -/
def encode : Instr → Word
  | .set b a => encodeBasic 0x01 b a
  | .add b a => encodeBasic 0x02 b a
  | .sub b a => encodeBasic 0x03 b a
  | .mul b a => encodeBasic 0x04 b a
  | .mli b a => encodeBasic 0x05 b a
  | .div b a => encodeBasic 0x06 b a
  | .dvi b a => encodeBasic 0x07 b a
  | .mod b a => encodeBasic 0x08 b a
  | .and b a => encodeBasic 0x09 b a
  | .bor b a => encodeBasic 0x0a b a
  | .xor b a => encodeBasic 0x0b b a
  | .shr b a => encodeBasic 0x0c b a
  | .asr b a => encodeBasic 0x0d b a
  | .shl b a => encodeBasic 0x0e b a
  | .sti b a => encodeBasic 0x0f b a
  | .ifb b a => encodeBasic 0x10 b a
  | .ifc b a => encodeBasic 0x11 b a
  | .ife b a => encodeBasic 0x12 b a
  | .ifn b a => encodeBasic 0x13 b a
  | .ifg b a => encodeBasic 0x14 b a
  | .ifa b a => encodeBasic 0x15 b a
  | .ifl b a => encodeBasic 0x16 b a
  | .ifu b a => encodeBasic 0x17 b a
  | .adx b a => encodeBasic 0x1a b a
  | .sbx b a => encodeBasic 0x1b b a
  | .jsr a => encodeSpecial 0x01 a
  | .hcf a => encodeSpecial 0x07 a
  | .int a => encodeSpecial 0x08 a
  | .iag a => encodeSpecial 0x09 a
  | .ias a => encodeSpecial 0x0a a
  | .hwn a => encodeSpecial 0x10 a
  | .hwq a => encodeSpecial 0x11 a
  | .hwi a => encodeSpecial 0x12 a

/-- What the decoder reads from an instruction whose bits are `w`, numbered as spec/opcode_table.json numbers them: bit 0
is the least significant bit of the first word. The first word alone tells the instruction (30 R97). -/
def decodeTableWord (nbits w : Nat) : Option Instr :=
  match decode (BitVec.ofNat 16 (w % 2 ^ nbits)) with
  | .ok i => some i
  | .error _ => none

end Sys2Proof
end

