-- ==== Sys2Proof/Config.lean ====
section
/-! DEFINITION. What an implementation or the platform fixes (spec 00 R6), and the free values of the spec: the
parameters `DevLoad` and `KeyEvents`, which no rule fixes (20 R55, 60 R318). -/

namespace Sys2Proof

/-- The number of words of the address space: 65,536 (00 R6, 20 R50). -/
def Config.memorySize : Nat := 0x10000

/-- The default base of the video region (00 R6, 60 R309). -/
def Config.videoBase : Word := 0x8000

/-- The length of the video region in words (00 R6, 60 R309). -/
def Config.videoLength : Nat := 0x400

/-- The default base of the keyboard region (00 R6, 60 R309). -/
def Config.keyboardBase : Word := 0x9000

/-- The length of the keyboard region in words (00 R6, 60 R309). -/
def Config.keyboardLength : Nat := 0x10

/-- One access that a mapped region's device port has seen (20 R55). -/
inductive DevAccess where
  | load (offset : Nat)
  | store (offset : Nat) (value : Word)
  deriving DecidableEq, Repr

/-- The parameter `DevLoad_r` of 20 R55, a FREE VALUE (log entry 7): the word that the device `id` answers to a load of
`offset`, after the accesses of `log` and after `polls` cycle boundaries. Nothing is assumed of it. -/
opaque Config.devLoad (id : Nat) (polls : Nat) (log : List DevAccess) (offset : Nat) : Word

/-- A key (60 R317). Which arrow has which of the four codes is left open (93 I9), and a rune may be wider than 16 bits. -/
inductive Key where
  | arrow (n : Fin 4)
  | rune (code : Nat)
  deriving DecidableEq, Repr

/-- A keyboard event: a key goes down or up (60 R317). -/
inductive KeyEvent where
  | down (k : Key)
  | up (k : Key)
  deriving DecidableEq, Repr

/-- The parameter `KeyEvents` of 60 R318, a FREE VALUE (log entry 8): the event, if any, on offer at the `n`-th poll. -/
opaque Config.keyEvent (n : Nat) : Option KeyEvent

end Sys2Proof
end

