-- ==== Sys2Proof/Machine/State.lean ====
section
/-! DEFINITION. The machine's state as plain data (spec 10 R20 to R38, 60 R314 to R318), the reasons a step can stop, and
the state after reset. -/

namespace Sys2Proof.Machine

/-- The twelve registers (10 R20). -/
inductive Reg where
  | a | b | c | x | y | z | i | j | sp | pc | ex | ia
  deriving DecidableEq, Repr

/-- The register file: twelve cells of one Word (10 R20, R21). -/
structure RegFile where
  a : Word
  b : Word
  c : Word
  x : Word
  y : Word
  z : Word
  i : Word
  j : Word
  sp : Word
  pc : Word
  ex : Word
  ia : Word
  deriving DecidableEq, Repr

/-- A write-back target (10 R32): nothing, a register, or a memory word. What is kept for an IFx, which writes nothing back, is
log entry 20. -/
inductive Address where
  | none
  | register (r : Reg)
  | memory (ad : Word)
  deriving DecidableEq, Repr

/-- The pipeline phase of the next cycle (10 R31). -/
inductive Phase where
  | fetch | decodeA | decodeB | execute
  deriving DecidableEq, Repr

/-- The three fatal errors, with the information each records (10 R33, 60 R300). -/
inductive Error where
  | protection (ad : Word)
  | opcode (form : Form) (code : BitVec 5)
  | halt
  deriving DecidableEq, Repr

/-- The pipeline scratch (10 R31). -/
structure Scratch where
  step : Phase
  delayed : Bool
  form : Form
  op : BitVec 5
  fa : BitVec 6
  fb : BitVec 5
  va : Word
  addrA : Address
  vb : Word
  addrB : Address
  remaining : Nat
  synth : Bool
  nextPc : Word
  deriving DecidableEq, Repr

/-- Words by address, in one canonical form: addresses strictly rising, no word 0 listed. An unlisted address reads as 0,
the spec's reset contents of the backing store (10 R38). A cell is a word, the smallest addressable unit (20 R65; log
entry 1). -/
abbrev WordMem := List (Nat × Word)

/-- A region: the closed-open interval from `start` to `start + length` (20 R51). -/
structure Region where
  start : Nat
  length : Nat
  deriving DecidableEq, Repr

/-- What answers behind a mapped region, the variant of 20 R55, with the device's own data. -/
inductive Device where
  /-- The video device: the last word stored at each offset since it was mapped (60 R314). -/
  | video (cells : WordMem)
  /-- The keyboard device: its ring and its write cursor (60 R315), and the keys whose "key down" was accepted and whose
  "key up" has not been sent since (60 R317; log entry 18). -/
  | keyboard (ring : Vector Word 16) (cursor : Fin 16) (accepted : List Key)
  /-- A user-supplied buffer: its load returns the buffer word and its store writes it (95 S4). -/
  | buffer (words : WordMem)
  /-- Any other device: its number and the accesses it has seen; its load is the parameter `DevLoad` (20 R55). -/
  | external (id : Nat) (log : List DevAccess)
  deriving DecidableEq, Repr

/-- A mapped region (10 R36). -/
structure MapRegion where
  start : Nat
  length : Nat
  dev : Device
  deriving DecidableEq, Repr

/-- Why the machine stops. -/
inductive Fault where
  /-- Raised by a failed IFx whose skip chain meets no instruction that is not an IFx: the block is stuck inside its cycle
  and the state has no successor (43 R252). Safe: nothing is claimed of what follows (log entry 6). -/
  | skipChainNeverEnds
  deriving DecidableEq, Repr

/-- Why an instruction is refused. -/
inductive Refusal where
  /-- Raised by `exec` for an instruction that has no meaning yet; no arm does. Safe. -/
  | notModelled (mnemonic : String)
  deriving DecidableEq, Repr

/-- The machine's state. -/
structure State where
  /-- The register file (10 R20). -/
  regs : RegFile
  /-- The pipeline scratch (10 R31). -/
  scratch : Scratch
  /-- The latched error, the block's error output (10 R33, 00 R5). -/
  lastError : Option Error
  /-- The backing store of 65,536 words (10 R34). -/
  backing : WordMem
  /-- The protected set P, as the list of its maximal regions (10 R34, R35). -/
  prot : List Region
  /-- The mapped regions, by ascending start (10 R36). -/
  mmap : List MapRegion
  /-- The host's cycle counter (10 R37, 60 R319; log entry 9). -/
  cycleCount : Nat
  /-- The host's running or idle flag (10 R37): set by `start`, cleared by `stop` only, also after an error (log entry 19). -/
  running : Bool
  /-- The model's own field: how many keyboard polls have run, the index of the next draw of `KeyEvents` (log entry 8). -/
  polls : Nat
  deriving DecidableEq, Repr

/-- Every register is 0x0000 after reset (10 R38). -/
def RegFile.reset : RegFile :=
  { a := 0, b := 0, c := 0, x := 0, y := 0, z := 0, i := 0, j := 0, sp := 0, pc := 0, ex := 0, ia := 0 }

/-- The scratch after reset: FETCH, both latches clear (10 R38). The other fields are unspecified there; their values are
DESIGN CHOICES (log entry 4). -/
def Scratch.reset : Scratch :=
  { step := .fetch, delayed := false, form := .special, op := 0, fa := 0, fb := 0, va := 0, addrA := .none, vb := 0,
    addrB := .none, remaining := 1, synth := false, nextPc := 0 }

/-- The machine right after reset (10 R38, 70 R350). -/
def State.reset : State :=
  { regs := RegFile.reset, scratch := Scratch.reset, lastError := none, backing := [], prot := [], mmap := [],
    cycleCount := 0, running := false, polls := 0 }

end Sys2Proof.Machine
end

