-- ==== Sys2Proof/Machine/Devices.lean ====
section
/-! DEFINITION. Words by address, and the devices behind the router's ports (spec 20 R55, 60 R309 to R318). -/

namespace Sys2Proof.Machine

/-- The word at address `ad`: the listed one, or 0 (10 R38). -/
def WordMem.read : WordMem → Nat → Word
  | [], _ => 0
  | (k, v) :: m, ad => if k = ad then v else WordMem.read m ad

/-- Lists `v` at `ad` in ascending order. -/
def WordMem.insert (ad : Nat) (v : Word) : WordMem → WordMem
  | [] => [(ad, v)]
  | (k, w) :: m => if ad < k then (ad, v) :: (k, w) :: m else (k, w) :: WordMem.insert ad v m

/-- Writes `v` at `ad`: the old entry goes, and a word other than 0 is listed. -/
def WordMem.write (m : WordMem) (ad : Nat) (v : Word) : WordMem :=
  let rest := m.filter (fun cell => cell.1 ≠ ad)
  if v = 0 then rest else WordMem.insert ad v rest

/-- The canonical form: addresses strictly rising, no word 0 listed, every address in the space. -/
abbrev WordMem.wf (m : WordMem) : Prop :=
  m.Pairwise (fun cell later => cell.1 < later.1) ∧ ∀ cell ∈ m, cell.2 ≠ 0 ∧ cell.1 < Config.memorySize

/-- `load_fn(offset)`: what the device answers (20 R55, 60 R314, R315, 95 S4). An offset past the keyboard's ring reads as
0 (log entry 12). -/
def Device.loadValue (d : Device) (polls : Nat) (offset : Nat) : Word :=
  match d with
  | .video cells => WordMem.read cells offset
  | .keyboard ring _ _ => ring[offset]?.getD 0
  | .buffer words => WordMem.read words offset
  | .external id log => Config.devLoad id polls log offset

/-- The device after a load of `offset`: only a device of its own kind may notice it (20 R55, R68). -/
def Device.afterLoad (d : Device) (offset : Nat) : Device :=
  match d with
  | .external id log => .external id (log ++ [.load offset])
  | other => other

/-- `store_fn(offset, value)`: the device after the store; it never fails (20 R55, 60 R314, R315, 95 S4). -/
def Device.afterStore (d : Device) (offset : Nat) (value : Word) : Device :=
  match d with
  | .video cells => .video (WordMem.write cells offset value)
  | .keyboard ring cursor accepted => .keyboard (ring.setIfInBounds offset value) cursor accepted
  | .buffer words => .buffer (WordMem.write words offset value)
  | .external id log => .external id (log ++ [.store offset value])

/-- The keyboard when it is mapped: ring and cursor 0 (60 R316), and no "key down" accepted yet (log entry 18). -/
def Device.freshKeyboard : Device := .keyboard (Vector.replicate 16 0) 0 []

/-- The video device when it is mapped: no word stored yet (60 R314). -/
def Device.freshVideo : Device := .video []

/-- The code of a key: 128 to 131 for an arrow, the rune for another key (60 R317). -/
def keyCode : Key → Nat
  | .arrow n => 128 + n.val
  | .rune code => code

/-- What an event writes to the ring before the reduction to 16 bits: a key up is `code | 0x100` (60 R317). -/
def eventCode : KeyEvent → Nat
  | .down k => keyCode k
  | .up k => keyCode k ||| 0x100

/-- The event may be sent: a key up only if the corresponding key down was accepted (60 R317; log entry 18). -/
def eventSendable (accepted : List Key) : KeyEvent → Bool
  | .down _ => true
  | .up k => k ∈ accepted

/-- The accepted keys after an event that the ring took (60 R317; log entry 18). -/
def acceptedAfter (accepted : List Key) : KeyEvent → List Key
  | .down k => accepted.insert k
  | .up k => accepted.filter (fun held => held ≠ k)

/-- The keyboard's poll with the event `event` on offer: a zero slot under the cursor takes an event that may be sent, and
the cursor moves on; a full buffer takes nothing (60 R317, R318). -/
def Device.poll (event : Option KeyEvent) (d : Device) : Device :=
  match d with
  | .keyboard ring cursor accepted =>
    if ring[cursor] = 0 then
      match event with
      | some e =>
        if eventSendable accepted e then
          .keyboard (ring.set cursor (truncNat (eventCode e))) (cursor + 1) (acceptedAfter accepted e)
        else d
      | none => d
    else d
  | other => other

/-- The device is the keyboard peripheral. -/
def Device.isKeyboard : Device → Bool
  | .keyboard _ _ _ => true
  | _ => false

/-- The device is the video peripheral. -/
def Device.isVideo : Device → Bool
  | .video _ => true
  | _ => false

/-- The poll acts on the keyboard, the first region that is one; without a keyboard it does nothing (60 R318; log entry
11). -/
def pollRegions (event : Option KeyEvent) : List MapRegion → List MapRegion
  | [] => []
  | r :: rs =>
    if r.dev.isKeyboard then { r with dev := r.dev.poll event } :: rs else r :: pollRegions event rs

/-- A color, by the bits of its nibble (60 R311). -/
structure Color where
  blue : Bool
  green : Bool
  red : Bool
  highlight : Bool
  deriving DecidableEq, Repr

/-- The color of a nibble: bit 0 is blue, bit 1 green, bit 2 red and bit 3 highlight (60 R311). -/
def colorOf (nibble : BitVec 4) : Color :=
  { blue := nibble.getLsbD 0, green := nibble.getLsbD 1, red := nibble.getLsbD 2, highlight := nibble.getLsbD 3 }

/-- A video character cell, `FFFFBBBBRCCCCCCC` (60 R311). -/
structure VideoCell where
  foreground : Color
  background : Color
  blink : Bool
  character : BitVec 7
  deriving DecidableEq, Repr

/-- The fields of a video character cell (60 R311). -/
def videoCellOf (v : Word) : VideoCell :=
  { foreground := colorOf (v.extractLsb' 12 4), background := colorOf (v.extractLsb' 8 4), blink := v.getLsbD 7,
    character := v.extractLsb' 0 7 }

/-- What a word of the video device means, and what storing it repaints (60 R310, R312). -/
inductive Repaint where
  /-- One character cell. -/
  | cell (row column : Nat) (shown : VideoCell)
  /-- The user-defined font, ignored by a terminal backend. -/
  | font
  /-- The whole border: the background and border color. -/
  | border (color : Color)
  /-- No use given. -/
  | noUse
  deriving DecidableEq, Repr

/-- The video register map: what the word `v` at `offset` means (60 R310). Cells are in row-major order, 32 to a row (60
R313); of the background and border color the low 4 bits are used. -/
def repaintOf (offset : Nat) (v : Word) : Repaint :=
  if offset < 0x180 then .cell (offset / 32) (offset % 32) (videoCellOf v)
  else if offset < 0x280 then .font
  else if offset = 0x280 then .border (colorOf (v.extractLsb' 0 4))
  else .noUse

/-- What the video device shows for `offset` at a flush: the last word stored there (60 R312). -/
def shownAt (cells : WordMem) (offset : Nat) : Repaint := repaintOf offset (WordMem.read cells offset)

end Sys2Proof.Machine
end

