-- ==== Sys2Proof/Machine/Ops.lean ====
section
/-! DEFINITION. The operations every instruction shares: registers (spec 10 R20 to R26), the router's load and store (20
R52 to R54), the next word (40 R134), the write-back (40 R140), raising an error (00 R9, 60 R302), the end of a cycle
with the keyboard poll (60 R318), and the updates of the pipeline scratch (10 R31). -/

namespace Sys2Proof.Machine

/-- The register that a general register's number names (10 R20, 30 R92). -/
def regOf : GReg → Reg
  | .a => .a
  | .b => .b
  | .c => .c
  | .x => .x
  | .y => .y
  | .z => .z
  | .i => .i
  | .j => .j

/-- The index of a register in the file (10 R20). -/
def Reg.index : Reg → Fin 12
  | .a => 0
  | .b => 1
  | .c => 2
  | .x => 3
  | .y => 4
  | .z => 5
  | .i => 6
  | .j => 7
  | .sp => 8
  | .pc => 9
  | .ex => 10
  | .ia => 11

/-- `x[r]` (00 R9). -/
def RegFile.get (f : RegFile) : Reg → Word
  | .a => f.a
  | .b => f.b
  | .c => f.c
  | .x => f.x
  | .y => f.y
  | .z => f.z
  | .i => f.i
  | .j => f.j
  | .sp => f.sp
  | .pc => f.pc
  | .ex => f.ex
  | .ia => f.ia

/-- `x[r] <- v` (00 R9). -/
def RegFile.set (f : RegFile) (r : Reg) (v : Word) : RegFile :=
  match r with
  | .a => { f with a := v }
  | .b => { f with b := v }
  | .c => { f with c := v }
  | .x => { f with x := v }
  | .y => { f with y := v }
  | .z => { f with z := v }
  | .i => { f with i := v }
  | .j => { f with j := v }
  | .sp => { f with sp := v }
  | .pc => { f with pc := v }
  | .ex => { f with ex := v }
  | .ia => { f with ia := v }

/-- `x[r]` (00 R9). -/
def State.get (s : State) (r : Reg) : Word := s.regs.get r

/-- `x[r] <- v` (00 R9); no register is hardwired (10 R21). -/
def State.setReg (s : State) (r : Reg) (v : Word) : State := { s with regs := s.regs.set r v }

/-- `contains(addr)` (20 R51). -/
def Region.contains (r : Region) (ad : Nat) : Bool := r.start ≤ ad && ad < r.start + r.length

/-- `contains(addr)` (20 R51). -/
def MapRegion.contains (r : MapRegion) (ad : Nat) : Bool := r.start ≤ ad && ad < r.start + r.length

/-- The mapped region that an address is in, if any (20 R52, R56). -/
def regionAt (mm : List MapRegion) (ad : Nat) : Option MapRegion := mm.find? (fun r => r.contains ad)

/-- Changes the device of the mapped region that the address is in; `change` is given the offset (20 R52, R53). -/
def updateRegion (ad : Nat) (change : Nat → Device → Device) : List MapRegion → List MapRegion
  | [] => []
  | r :: rs =>
    if r.contains ad then { r with dev := change (ad - r.start) r.dev } :: rs
    else r :: updateRegion ad change rs

/-- The address is in P (20 R53). -/
def isProtected (prot : List Region) (ad : Nat) : Bool := prot.any (fun r => r.contains ad)

/-- The address is in a mapped region (20 R52). -/
def State.isMapped (s : State) (ad : Word) : Bool := (regionAt s.mmap ad.toNat).isSome

/-- A store to the address is refused: it is in P and in no mapped region (20 R53, R71). -/
def State.storeRefused (s : State) (ad : Word) : Bool := !s.isMapped ad && isProtected s.prot ad.toNat

/-- The word that `load(addr)` answers (20 R52). Protection does not affect it. -/
def State.loadValue (s : State) (ad : Word) : Word :=
  match regionAt s.mmap ad.toNat with
  | some r => r.dev.loadValue s.polls (ad.toNat - r.start)
  | none => WordMem.read s.backing ad.toNat

/-- The state after `load(addr)`: nothing but the device of a mapped region may change (20 R52, R68). -/
def State.afterLoad (s : State) (ad : Word) : State :=
  { s with mmap := updateRegion ad.toNat (fun offset d => d.afterLoad offset) s.mmap }

/-- What an operation that may raise an error comes to: the state it leaves, or the error and the state at the raise
(00 R9, 60 R303). -/
inductive Effect where
  | ok (s : State)
  | raised (e : Error) (s : State)
  deriving DecidableEq, Repr

/-- Goes on after an operation unless it raised (60 R303: nothing after the failing access happens). -/
def Effect.andThen (x : Effect) (next : State → Effect) : Effect :=
  match x with
  | .ok s => next s
  | .raised e s => .raised e s

/-- `store(addr, value)` (20 R53): mapped regions first, then the protection check, then the backing store. -/
def State.store (s : State) (ad : Word) (v : Word) : Effect :=
  if s.isMapped ad then
    .ok { s with mmap := updateRegion ad.toNat (fun offset d => d.afterStore offset v) s.mmap }
  else if isProtected s.prot ad.toNat then .raised (.protection ad) s
  else .ok { s with backing := WordMem.write s.backing ad.toNat v }

/-- `commit(addr, v)` (40 R140): a literal discards, a register takes the value, a memory word is stored to. -/
def State.commit (s : State) (target : Address) (v : Word) : Effect :=
  match target with
  | .none => .ok s
  | .register r => .ok (s.setReg r v)
  | .memory ad => s.store ad v

/-- Push with pre-decrement, as JSR and INT do it (10 R26, 44 R270, R272): SP goes down first and stays down if the store
is refused (92 D13). -/
def State.pushWord (s : State) (v : Word) : Effect :=
  let lowered := s.setReg .sp (s.get .sp - 1)
  lowered.store (lowered.get .sp) v

/-- A word read through the router, and the state after the read. -/
structure Fetched where
  value : Word
  after : State
  deriving DecidableEq, Repr

/-- `NextWord()` (40 R134): the word at PC, then PC goes up by one and wraps. -/
def State.nextWord (s : State) : Fetched :=
  let loaded := s.afterLoad (s.get .pc)
  { value := s.loadValue (s.get .pc), after := loaded.setReg .pc (loaded.get .pc + 1) }

/-- `raise E`: the error is latched and nothing else changes (00 R9, 60 R302). This is the whole of taking an error: there
is no trap, no vector and no return from one (60 R303). The running flag stays too, which is a DESIGN CHOICE (log entry
19). -/
def State.raise (s : State) (e : Error) : State := { s with lastError := some e }

/-- The host's cycle counter counts an executed cycle (60 R319; log entry 9). -/
def State.countCycle (s : State) : State := { s with cycleCount := s.cycleCount + 1 }

/-- The keyboard poll that follows an executed cycle (60 R318, 70 R355); its event is the next free draw. -/
def State.poll (s : State) : State :=
  { s with mmap := pollRegions (Config.keyEvent s.polls) s.mmap, polls := s.polls + 1 }

/-- The end of a cycle that returned no error, and the poll after it (70 R355). -/
def State.endCycle (s : State) : State := s.countCycle.poll

/-- `step <- p` (10 R31). -/
def State.setPhase (s : State) (p : Phase) : State := { s with scratch := { s.scratch with step := p } }

/-- `delayed <- d` (10 R31). -/
def State.setDelayed (s : State) (d : Bool) : State := { s with scratch := { s.scratch with delayed := d } }

/-- `remaining <- n` (10 R31). -/
def State.setRemaining (s : State) (n : Nat) : State := { s with scratch := { s.scratch with remaining := n } }

/-- `(va, addr_a) <- (v, t)` (40 R132). -/
def State.setOperandA (s : State) (v : Word) (t : Address) : State :=
  { s with scratch := { s.scratch with va := v, addrA := t } }

/-- `(vb, addr_b) <- (v, t)` (40 R132). -/
def State.setOperandB (s : State) (v : Word) (t : Address) : State :=
  { s with scratch := { s.scratch with vb := v, addrB := t } }

/-- FETCH splits the word into the scratch's `fa`, `fb`, `form` and `op` (40 R132). -/
def State.latchWord (s : State) (w : Word) : State :=
  { s with scratch := { s.scratch with fa := fieldA w, fb := fieldB w, form := formOf w, op := opOf w } }

/-- The end of FETCH for a legal opcode: the base cost, both latches clear, DECODE_A next (40 R132, R133). -/
def State.startInstr (s : State) (cost : Nat) : State :=
  { s with scratch := { s.scratch with remaining := cost, delayed := false, synth := false, step := .decodeA } }

/-- A failed IFx starts the internal `SET PC, next_pc` of cost `k` (43 R251). -/
def State.startSkip (s : State) (nextPc : Word) (k : Nat) : State :=
  { s with scratch := { s.scratch with synth := true, nextPc := nextPc, remaining := k, step := .execute } }

/-- The last cycle of the internal `SET PC, next_pc` (40 R132, 43 R251). -/
def State.finishSkip (s : State) : State :=
  { (s.setReg .pc s.scratch.nextPc) with scratch := { s.scratch with step := .fetch, synth := false } }

end Sys2Proof.Machine
end

