-- ==== Sys2Proof/Machine/Operands.lean ====
section
/-! DEFINITION. Operand resolution for every operand class (spec 30 R92, 40 R136), and the cycles in which the operands of
one instruction resolve (40 R135, R137, R138, R144). -/

namespace Sys2Proof.Machine

/-- A resolved operand: its value, its retained Address, and the state after its side effects (40 R136). -/
structure Resolved where
  value : Word
  target : Address
  after : State
  deriving DecidableEq, Repr

/-- A memory-class operand: its word is loaded once, and its address retained (40 R136). -/
def State.resolveAt (s : State) (ad : Word) : Resolved :=
  { value := s.loadValue ad, target := .memory ad, after := s.afterLoad ad }

/-- A register operand (40 R136). -/
def State.resolveReg (s : State) (r : Reg) : Resolved := { value := s.get r, target := .register r, after := s }

/-- `resolve(c, pos)` (40 R136). -/
def resolve (o : Operand) (s : State) : Resolved :=
  match o with
  | .reg r => s.resolveReg (regOf r)
  | .indirect r => s.resolveAt (s.get (regOf r))
  | .indexed r => s.nextWord.after.resolveAt (s.nextWord.value + s.nextWord.after.get (regOf r))
  | .push => (s.setReg .sp (s.get .sp - 1)).resolveAt (s.get .sp - 1)
  | .pop => (s.setReg .sp (s.get .sp + 1)).resolveAt (s.get .sp)
  | .peek => s.resolveAt (s.get .sp)
  | .pick => s.nextWord.after.resolveAt (s.nextWord.after.get .sp + s.nextWord.value)
  | .sp => s.resolveReg .sp
  | .pc => s.resolveReg .pc
  | .ex => s.resolveReg .ex
  | .nextIndirect => s.nextWord.after.resolveAt s.nextWord.value
  | .nextLiteral => { value := s.nextWord.value, target := .none, after := s.nextWord.after }
  | .short n => { value := n.setWidth 16 - 1, target := .none, after := s }

/-- The resolving part of DECODE_A: the latch is cleared and operand a resolved (40 R132, R135). -/
def State.resolveA (s : State) (a : Operand) : State :=
  let r := resolve a (s.setDelayed false)
  r.after.setOperandA r.value r.target

/-- The resolving part of DECODE_B (40 R132, R137). An IFx keeps the resolved address too, as 40 R132 and R136 write it,
where 10 R32 and 43 R240 call the Address of a predicate-only instruction None: DESIGN CHOICE (log entry 20). -/
def State.resolveB (s : State) (b : Operand) : State :=
  let r := resolve b (s.setDelayed false)
  r.after.setOperandB r.value r.target

/-- The cycle that an operand with a next word waits, the latch set (40 R135); no cycle for another operand. -/
def State.waitForWord (s : State) (o : Operand) : State :=
  if o.needsWord then (s.setDelayed true).endCycle else s

/-- DECODE_A to its end, with the cycle it may wait (40 R135). -/
def State.decodeA (s : State) (a : Operand) : State := (s.waitForWord a).resolveA a

/-- DECODE_B to its end, with the cycle it may wait (40 R137). -/
def State.decodeB (s : State) (b : Operand) : State := (s.waitForWord b).resolveB b

/-- `n` EXECUTE cycles that only count `remaining` down (40 R138). -/
def burnCycles : Nat → State → State
  | 0, s => s
  | n + 1, s => burnCycles n (s.setRemaining (s.scratch.remaining - 1)).endCycle

/-- A basic instruction of base cost `cost` from its decoded word to its `perform`: a resolves, then b, then the cost runs
down to 1, and the completing cycle sets `step <- FETCH` first (40 R132, R144; log entry 5). -/
def basicAtCompletion (cost : Nat) (b a : Operand) (s : State) : State :=
  (burnCycles (cost - 1)
    (((((s.startInstr cost).decodeA a).setPhase .decodeB).decodeB b).setPhase .execute)).setPhase .fetch

/-- A special instruction, the same way; DECODE_B is skipped (40 R135, 44 R269). -/
def specialAtCompletion (cost : Nat) (a : Operand) (s : State) : State :=
  (burnCycles (cost - 1) (((s.startInstr cost).decodeA a).setPhase .execute)).setPhase .fetch

/-- What `perform` in a completing EXECUTE cycle comes to (40 R132, R139, 43 R251, R252). -/
inductive Completion where
  /-- The instruction is done; the next cycle fetches. -/
  | finished (s : State)
  /-- A failed IFx has started the internal `SET PC, next_pc`. -/
  | skipping (s : State)
  /-- An error is raised in this state. -/
  | raised (e : Error) (s : State)
  /-- The skip chain never ends. -/
  | stuck
  deriving DecidableEq, Repr

/-- The completion of an instruction that is no IFx. -/
def Effect.complete : Effect → Completion
  | .ok s => .finished s
  | .raised e s => .raised e s

/-- The cycles of the internal `SET PC, next_pc` that follow a failed IFx's completing cycle: all but the last count down,
the last writes PC (43 R251). -/
def runSkip (s : State) : State :=
  (burnCycles (s.scratch.remaining - 1) s.endCycle).finishSkip.endCycle

/-- From `perform` to the next instruction boundary: the poll after the cycle (60 R318), the cycles of a skip (43 R251), a
latched error with no poll after it (60 R302, 70 R355; log entry 9), or no successor (43 R252; log entry 6). -/
def settle (c : Completion) : Host.Outcome State Fault Refusal :=
  match c with
  | .finished s => .next s.endCycle
  | .skipping s => .next (runSkip s)
  | .raised e s => .next (s.raise e).countCycle
  | .stuck => .fault .skipChainNeverEnds

end Sys2Proof.Machine
end

