-- ==== Sys2Proof/Machine/Arith.lean ====
section
/-! DEFINITION. The move and arithmetic instructions (spec 41 R170 to R183): for each its result, what it does in its completing cycle,
and its meaning. -/

namespace Sys2Proof.Machine

/-- EX is written before the result is committed to `addr_b` (40 R139, R141), so a write-back to EX replaces it. -/
def State.writeExAndB (s : State) (ex v : Word) : Effect := (s.setReg .ex ex).commit s.scratch.addrB v

/-- The result alone is committed to `addr_b`; EX is unchanged unless it is the target (10 R27). -/
def State.writeB (s : State) (v : Word) : Effect := s.commit s.scratch.addrB v

/-- The sum (41 R172). -/
def addResult (b a : Word) : Word := truncNat (unsignedOf b + unsignedOf a)

/-- The difference (41 R173). -/
def subResult (b a : Word) : Word := trunc16 ((unsignedOf b : Int) - unsignedOf a)

/-- Bits 15 to 0 of the product (41 R174). -/
def mulResult (b a : Word) : Word := truncNat (unsignedOf b * unsignedOf a)

/-- The signed product, reduced (41 R175). -/
def mliResult (b a : Word) : Word := trunc16 (signedOf b * signedOf a)

/-- The quotient, 0 on division by zero (41 R176). -/
def divResult (b a : Word) : Word :=
  if unsignedOf a = 0 then 0x0000 else truncNat (unsignedOf b / unsignedOf a)

/-- The signed quotient, truncated toward zero, 0 on division by zero (41 R177). -/
def dviResult (b a : Word) : Word :=
  if unsignedOf a = 0 then 0x0000 else trunc16 (Int.tdiv (signedOf b) (signedOf a))

/-- The remainder, 0 on division by zero (41 R178). -/
def modResult (b a : Word) : Word :=
  if unsignedOf a = 0 then 0x0000 else truncNat (unsignedOf b % unsignedOf a)

/-- The sum with EX as carry in (41 R179). -/
def adxResult (b a ex : Word) : Word := truncNat (unsignedOf b + unsignedOf a + unsignedOf ex)

/-- The difference with EX added (41 R180). -/
def sbxResult (b a ex : Word) : Word := trunc16 (sbxSum b a ex)

/-- STI after its store: I and J go up by one (41 R181). -/
def State.incrementIJ (s : State) : State :=
  let s' := s.setReg .i (s.get .i + 1)
  s'.setReg .j (s'.get .j + 1)

/-- The completing cycle of SET: `b = a` (41 R171). -/
def performSet (s : State) : Effect := s.writeB s.scratch.va

/-- The completing cycle of ADD (41 R172). -/
def performAdd (s : State) : Effect :=
  s.writeExAndB (exAdd s.scratch.vb s.scratch.va) (addResult s.scratch.vb s.scratch.va)

/-- The completing cycle of SUB (41 R173). -/
def performSub (s : State) : Effect :=
  s.writeExAndB (exSub s.scratch.vb s.scratch.va) (subResult s.scratch.vb s.scratch.va)

/-- The completing cycle of MUL (41 R174). -/
def performMul (s : State) : Effect :=
  s.writeExAndB (exMul s.scratch.vb s.scratch.va) (mulResult s.scratch.vb s.scratch.va)

/-- The completing cycle of MLI (41 R175). -/
def performMli (s : State) : Effect :=
  s.writeExAndB (exMli s.scratch.vb s.scratch.va) (mliResult s.scratch.vb s.scratch.va)

/-- The completing cycle of DIV (41 R176). -/
def performDiv (s : State) : Effect :=
  s.writeExAndB (exDiv s.scratch.vb s.scratch.va) (divResult s.scratch.vb s.scratch.va)

/-- The completing cycle of DVI (41 R177). -/
def performDvi (s : State) : Effect :=
  s.writeExAndB (exDvi s.scratch.vb s.scratch.va) (dviResult s.scratch.vb s.scratch.va)

/-- The completing cycle of MOD: EX is unchanged (41 R178, 90 C3). -/
def performMod (s : State) : Effect := s.writeB (modResult s.scratch.vb s.scratch.va)

/-- The completing cycle of ADX: EX is read in the completing cycle (41 R179). -/
def performAdx (s : State) : Effect :=
  s.writeExAndB (exAdx s.scratch.vb s.scratch.va (s.get .ex)) (adxResult s.scratch.vb s.scratch.va (s.get .ex))

/-- The completing cycle of SBX: EX is read in the completing cycle (41 R180). -/
def performSbx (s : State) : Effect :=
  s.writeExAndB (exSbx s.scratch.vb s.scratch.va (s.get .ex)) (sbxResult s.scratch.vb s.scratch.va (s.get .ex))

/-- The completing cycle of STI: the store first; if it raises, I and J stay (41 R181). -/
def performSti (s : State) : Effect := (s.writeB s.scratch.va).andThen (fun s' => .ok s'.incrementIJ)

/-- SET b, a: base cost 1 (30 R98). -/
def execSet (b a : Operand) (s : State) : Host.Outcome State Fault Refusal :=
  settle (performSet (basicAtCompletion 1 b a s)).complete

/-- ADD b, a: base cost 2 (30 R98). -/
def execAdd (b a : Operand) (s : State) : Host.Outcome State Fault Refusal :=
  settle (performAdd (basicAtCompletion 2 b a s)).complete

/-- SUB b, a: base cost 2 (30 R98). -/
def execSub (b a : Operand) (s : State) : Host.Outcome State Fault Refusal :=
  settle (performSub (basicAtCompletion 2 b a s)).complete

/-- MUL b, a: base cost 2 (30 R98). -/
def execMul (b a : Operand) (s : State) : Host.Outcome State Fault Refusal :=
  settle (performMul (basicAtCompletion 2 b a s)).complete

/-- MLI b, a: base cost 2 (30 R98). -/
def execMli (b a : Operand) (s : State) : Host.Outcome State Fault Refusal :=
  settle (performMli (basicAtCompletion 2 b a s)).complete

/-- DIV b, a: base cost 3 (30 R98). -/
def execDiv (b a : Operand) (s : State) : Host.Outcome State Fault Refusal :=
  settle (performDiv (basicAtCompletion 3 b a s)).complete

/-- DVI b, a: base cost 3 (30 R98). -/
def execDvi (b a : Operand) (s : State) : Host.Outcome State Fault Refusal :=
  settle (performDvi (basicAtCompletion 3 b a s)).complete

/-- MOD b, a: base cost 3 (30 R98). -/
def execMod (b a : Operand) (s : State) : Host.Outcome State Fault Refusal :=
  settle (performMod (basicAtCompletion 3 b a s)).complete

/-- ADX b, a: base cost 3 (30 R98). -/
def execAdx (b a : Operand) (s : State) : Host.Outcome State Fault Refusal :=
  settle (performAdx (basicAtCompletion 3 b a s)).complete

/-- SBX b, a: base cost 3 (30 R98). -/
def execSbx (b a : Operand) (s : State) : Host.Outcome State Fault Refusal :=
  settle (performSbx (basicAtCompletion 3 b a s)).complete

/-- STI b, a: base cost 2 (30 R98). -/
def execSti (b a : Operand) (s : State) : Host.Outcome State Fault Refusal :=
  settle (performSti (basicAtCompletion 2 b a s)).complete

end Sys2Proof.Machine
end

