-- ==== Sys2Proof/Machine/Conditional.lean ====
section
/-! DEFINITION. The conditional instructions and the skip chain (spec 43 R240 to R253). -/

namespace Sys2Proof.Machine

/-- Where a skip chain ends (43 R250): the next PC, the number of skipped instructions, and the state after the scan's
loads. -/
structure ChainEnd where
  nextPc : Word
  skipped : Nat
  after : State
  deriving DecidableEq, Repr

/-- `chain(p)` (43 R250), `k` instructions counted so far, with at most `fuel` more loads. The scan loads the first word of
each skipped instruction and raises nothing (92 D16). `none`: no instruction that is not an IFx was met. -/
def scanChain : Nat → Word → Nat → State → Option ChainEnd
  | 0, _, _, _ => none
  | fuel + 1, p, k, s =>
    let w := s.loadValue p
    let next := p + truncNat (lengthOf w)
    if isIfWord w then scanChain fuel next (k + 1) (s.afterLoad p)
    else some { nextPc := next, skipped := k + 1, after := s.afterLoad p }

/-- The completing cycle of every IFx (43 R240): a true predicate ends the instruction; a false one scans the chain from PC
and starts the skip (43 R251). A scan of 65,536 words that meets only IFx words has come back to an address it had
scanned, and never ends (43 R252; log entry 6). -/
def conditional (holds : Word → Word → Bool) (s : State) : Completion :=
  if holds s.scratch.vb s.scratch.va then .finished s
  else
    match scanChain Config.memorySize (s.get .pc) 0 s with
    | some chain => .skipping (chain.after.startSkip chain.nextPc chain.skipped)
    | none => .stuck

/-- The predicate of IFB: some bit of a is set in b (43 R241). -/
def holdsIfb (b a : Word) : Bool := b &&& a ≠ 0

/-- The predicate of IFC: no bit of a is set in b (43 R242). -/
def holdsIfc (b a : Word) : Bool := b &&& a = 0

/-- The predicate of IFE: equal (43 R243). -/
def holdsIfe (b a : Word) : Bool := b = a

/-- The predicate of IFN: not equal (43 R244). -/
def holdsIfn (b a : Word) : Bool := b ≠ a

/-- The predicate of IFG: greater, unsigned (43 R245). -/
def holdsIfg (b a : Word) : Bool := unsignedOf b > unsignedOf a

/-- The predicate of IFA: above, signed (43 R246). -/
def holdsIfa (b a : Word) : Bool := signedOf b > signedOf a

/-- The predicate of IFL: less, unsigned (43 R247). -/
def holdsIfl (b a : Word) : Bool := unsignedOf b < unsignedOf a

/-- The predicate of IFU: under, signed (43 R248). -/
def holdsIfu (b a : Word) : Bool := signedOf b < signedOf a

/-- The completing cycle of IFB (43 R241). -/
def performIfb (s : State) : Completion := conditional holdsIfb s

/-- The completing cycle of IFC (43 R242). -/
def performIfc (s : State) : Completion := conditional holdsIfc s

/-- The completing cycle of IFE (43 R243). -/
def performIfe (s : State) : Completion := conditional holdsIfe s

/-- The completing cycle of IFN (43 R244). -/
def performIfn (s : State) : Completion := conditional holdsIfn s

/-- The completing cycle of IFG (43 R245). -/
def performIfg (s : State) : Completion := conditional holdsIfg s

/-- The completing cycle of IFA (43 R246). -/
def performIfa (s : State) : Completion := conditional holdsIfa s

/-- The completing cycle of IFL (43 R247). -/
def performIfl (s : State) : Completion := conditional holdsIfl s

/-- The completing cycle of IFU (43 R248). -/
def performIfu (s : State) : Completion := conditional holdsIfu s

/-- IFB b, a: base cost 2 (30 R98). -/
def execIfb (b a : Operand) (s : State) : Host.Outcome State Fault Refusal :=
  settle (performIfb (basicAtCompletion 2 b a s))

/-- IFC b, a: base cost 2 (30 R98). -/
def execIfc (b a : Operand) (s : State) : Host.Outcome State Fault Refusal :=
  settle (performIfc (basicAtCompletion 2 b a s))

/-- IFE b, a: base cost 2 (30 R98). -/
def execIfe (b a : Operand) (s : State) : Host.Outcome State Fault Refusal :=
  settle (performIfe (basicAtCompletion 2 b a s))

/-- IFN b, a: base cost 2 (30 R98). -/
def execIfn (b a : Operand) (s : State) : Host.Outcome State Fault Refusal :=
  settle (performIfn (basicAtCompletion 2 b a s))

/-- IFG b, a: base cost 2 (30 R98). -/
def execIfg (b a : Operand) (s : State) : Host.Outcome State Fault Refusal :=
  settle (performIfg (basicAtCompletion 2 b a s))

/-- IFA b, a: base cost 2 (30 R98). -/
def execIfa (b a : Operand) (s : State) : Host.Outcome State Fault Refusal :=
  settle (performIfa (basicAtCompletion 2 b a s))

/-- IFL b, a: base cost 2 (30 R98). -/
def execIfl (b a : Operand) (s : State) : Host.Outcome State Fault Refusal :=
  settle (performIfl (basicAtCompletion 2 b a s))

/-- IFU b, a: base cost 2 (30 R98). -/
def execIfu (b a : Operand) (s : State) : Host.Outcome State Fault Refusal :=
  settle (performIfu (basicAtCompletion 2 b a s))

end Sys2Proof.Machine
end

