-- ==== Sys2Proof/Machine/Logic.lean ====
section
/-! DEFINITION. The bitwise and shift instructions (spec 42 R210 to R217), in the shared form of 41 R170. -/

namespace Sys2Proof.Machine

/-- The logical shift right (42 R214). -/
def shrResult (b a : Word) : Word := truncNat (unsignedOf b >>> unsignedOf a)

/-- The arithmetic shift right (42 R215). -/
def asrResult (b a : Word) : Word := trunc16 (signedOf b >>> unsignedOf a)

/-- The shift left (42 R216). -/
def shlResult (b a : Word) : Word := truncNat (unsignedOf b <<< unsignedOf a)

/-- The completing cycle of AND: EX is unchanged (42 R211). -/
def performAnd (s : State) : Effect := s.writeB (s.scratch.vb &&& s.scratch.va)

/-- The completing cycle of BOR: EX is unchanged (42 R212). -/
def performBor (s : State) : Effect := s.writeB (s.scratch.vb ||| s.scratch.va)

/-- The completing cycle of XOR: EX is unchanged (42 R213). -/
def performXor (s : State) : Effect := s.writeB (s.scratch.vb ^^^ s.scratch.va)

/-- The completing cycle of SHR (42 R214). -/
def performShr (s : State) : Effect :=
  s.writeExAndB (exShr s.scratch.vb s.scratch.va) (shrResult s.scratch.vb s.scratch.va)

/-- The completing cycle of ASR (42 R215). -/
def performAsr (s : State) : Effect :=
  s.writeExAndB (exAsr s.scratch.vb s.scratch.va) (asrResult s.scratch.vb s.scratch.va)

/-- The completing cycle of SHL (42 R216). -/
def performShl (s : State) : Effect :=
  s.writeExAndB (exShl s.scratch.vb s.scratch.va) (shlResult s.scratch.vb s.scratch.va)

/-- AND b, a: base cost 1 (30 R98). -/
def execAnd (b a : Operand) (s : State) : Host.Outcome State Fault Refusal :=
  settle (performAnd (basicAtCompletion 1 b a s)).complete

/-- BOR b, a: base cost 1 (30 R98). -/
def execBor (b a : Operand) (s : State) : Host.Outcome State Fault Refusal :=
  settle (performBor (basicAtCompletion 1 b a s)).complete

/-- XOR b, a: base cost 1 (30 R98). -/
def execXor (b a : Operand) (s : State) : Host.Outcome State Fault Refusal :=
  settle (performXor (basicAtCompletion 1 b a s)).complete

/-- SHR b, a: base cost 2 (30 R98). -/
def execShr (b a : Operand) (s : State) : Host.Outcome State Fault Refusal :=
  settle (performShr (basicAtCompletion 2 b a s)).complete

/-- ASR b, a: base cost 2 (30 R98). -/
def execAsr (b a : Operand) (s : State) : Host.Outcome State Fault Refusal :=
  settle (performAsr (basicAtCompletion 2 b a s)).complete

/-- SHL b, a: base cost 2 (30 R98). -/
def execShl (b a : Operand) (s : State) : Host.Outcome State Fault Refusal :=
  settle (performShl (basicAtCompletion 2 b a s)).complete

end Sys2Proof.Machine
end

