-- ==== Sys2Proof/Machine/Special.lean ====
section
/-! DEFINITION. The special instructions (spec 44 R269 to R277). -/

namespace Sys2Proof.Machine

/-- The completing cycle of JSR: push PC, then jump to a (44 R270). -/
def performJsr (s : State) : Effect := (s.pushWord (s.get .pc)).andThen (fun s' => .ok (s'.setReg .pc s'.scratch.va))

/-- The completing cycle of HCF: HaltError, always (44 R271). -/
def performHcf (s : State) : Effect := .raised .halt s

/-- The completing cycle of INT: push PC, push A, A takes the message, jump to IA, whatever IA holds (44 R272, 92 D20). -/
def performInt (s : State) : Effect :=
  (s.pushWord (s.get .pc)).andThen (fun s1 =>
    (s1.pushWord (s1.get .a)).andThen (fun s2 =>
      let s3 := s2.setReg .a s2.scratch.va
      .ok (s3.setReg .pc (s3.get .ia))))

/-- The completing cycle of IAG: IA is written back to a's address (44 R273). -/
def performIag (s : State) : Effect := s.commit s.scratch.addrA (s.get .ia)

/-- The completing cycle of IAS: IA takes a (44 R274). -/
def performIas (s : State) : Effect := .ok (s.setReg .ia s.scratch.va)

/-- The completing cycle of HWN: the device count, always 0, is written back to a's address (44 R275). -/
def performHwn (s : State) : Effect := s.commit s.scratch.addrA 0x0000

/-- The completing cycle of HWQ: A, B, C, X and Y are cleared (44 R276). -/
def performHwq (s : State) : Effect := .ok (((((s.setReg .a 0).setReg .b 0).setReg .c 0).setReg .x 0).setReg .y 0)

/-- The completing cycle of HWI: nothing (44 R277). -/
def performHwi (s : State) : Effect := .ok s

/-- JSR a: base cost 3 (30 R99). -/
def execJsr (a : Operand) (s : State) : Host.Outcome State Fault Refusal :=
  settle (performJsr (specialAtCompletion 3 a s)).complete

/-- HCF a: base cost 9 (30 R99). -/
def execHcf (a : Operand) (s : State) : Host.Outcome State Fault Refusal :=
  settle (performHcf (specialAtCompletion 9 a s)).complete

/-- INT a: base cost 4 (30 R99). -/
def execInt (a : Operand) (s : State) : Host.Outcome State Fault Refusal :=
  settle (performInt (specialAtCompletion 4 a s)).complete

/-- IAG a: base cost 1 (30 R99). -/
def execIag (a : Operand) (s : State) : Host.Outcome State Fault Refusal :=
  settle (performIag (specialAtCompletion 1 a s)).complete

/-- IAS a: base cost 1 (30 R99). -/
def execIas (a : Operand) (s : State) : Host.Outcome State Fault Refusal :=
  settle (performIas (specialAtCompletion 1 a s)).complete

/-- HWN a: base cost 2 (30 R99). -/
def execHwn (a : Operand) (s : State) : Host.Outcome State Fault Refusal :=
  settle (performHwn (specialAtCompletion 2 a s)).complete

/-- HWQ a: base cost 4 (30 R99). -/
def execHwq (a : Operand) (s : State) : Host.Outcome State Fault Refusal :=
  settle (performHwq (specialAtCompletion 4 a s)).complete

/-- HWI a: base cost 4 (30 R99). -/
def execHwi (a : Operand) (s : State) : Host.Outcome State Fault Refusal :=
  settle (performHwi (specialAtCompletion 4 a s)).complete

end Sys2Proof.Machine
end

