-- ==== Sys2Proof/Machine/Cycle.lean ====
section
/-! DEFINITION. The cycle-level machine (spec 40 R130 to R139): what one clock cycle does to the scratch and the rest, and the
driver's loop of a cycle and a poll (70 R355). -/

namespace Sys2Proof.Machine

/-- The base cost of an instruction in cycles (30 R98, R99). -/
def baseCost : Instr → Nat
  | .set _ _ => 1
  | .add _ _ => 2
  | .sub _ _ => 2
  | .mul _ _ => 2
  | .mli _ _ => 2
  | .div _ _ => 3
  | .dvi _ _ => 3
  | .mod _ _ => 3
  | .and _ _ => 1
  | .bor _ _ => 1
  | .xor _ _ => 1
  | .shr _ _ => 2
  | .asr _ _ => 2
  | .shl _ _ => 2
  | .sti _ _ => 2
  | .ifb _ _ => 2
  | .ifc _ _ => 2
  | .ife _ _ => 2
  | .ifn _ _ => 2
  | .ifg _ _ => 2
  | .ifa _ _ => 2
  | .ifl _ _ => 2
  | .ifu _ _ => 2
  | .adx _ _ => 3
  | .sbx _ _ => 3
  | .jsr _ => 3
  | .hcf _ => 9
  | .int _ => 4
  | .iag _ => 1
  | .ias _ => 1
  | .hwn _ => 2
  | .hwq _ => 4
  | .hwi _ => 4

/-- What an instruction does in its completing cycle, on the operands in the scratch (40 R139). -/
def performInstr (i : Instr) (s : State) : Completion :=
  match i with
  | .set _ _ => (performSet s).complete
  | .add _ _ => (performAdd s).complete
  | .sub _ _ => (performSub s).complete
  | .mul _ _ => (performMul s).complete
  | .mli _ _ => (performMli s).complete
  | .div _ _ => (performDiv s).complete
  | .dvi _ _ => (performDvi s).complete
  | .mod _ _ => (performMod s).complete
  | .and _ _ => (performAnd s).complete
  | .bor _ _ => (performBor s).complete
  | .xor _ _ => (performXor s).complete
  | .shr _ _ => (performShr s).complete
  | .asr _ _ => (performAsr s).complete
  | .shl _ _ => (performShl s).complete
  | .sti _ _ => (performSti s).complete
  | .ifb _ _ => performIfb s
  | .ifc _ _ => performIfc s
  | .ife _ _ => performIfe s
  | .ifn _ _ => performIfn s
  | .ifg _ _ => performIfg s
  | .ifa _ _ => performIfa s
  | .ifl _ _ => performIfl s
  | .ifu _ _ => performIfu s
  | .adx _ _ => (performAdx s).complete
  | .sbx _ _ => (performSbx s).complete
  | .jsr _ => (performJsr s).complete
  | .hcf _ => (performHcf s).complete
  | .int _ => (performInt s).complete
  | .iag _ => (performIag s).complete
  | .ias _ => (performIas s).complete
  | .hwn _ => (performHwn s).complete
  | .hwq _ => (performHwq s).complete
  | .hwi _ => (performHwi s).complete

/-- The instruction in flight, from the scratch's fields (10 R31). -/
def inFlight (s : State) : Except IllegalOpcode Instr :=
  decodeFields s.scratch.form s.scratch.op s.scratch.fa s.scratch.fb

/-- The end of the completing cycle: done, a skip started, the error latched, or no successor (40 R132, 43 R252). -/
def endOfCompletion (c : Completion) : Host.Outcome State Fault Refusal :=
  match c with
  | .finished s => .next s
  | .skipping s => .next s
  | .raised e s => .next (s.raise e)
  | .stuck => .fault .skipChainNeverEnds

/-- EXECUTE (40 R132, R138, R139): count down, or the last cycle of a skip, or set `step <- FETCH` and perform, so that the
tag reads FETCH where `perform` raises (log entry 5). No reachable state has an illegal opcode in flight here; one that has
raises its error (log entry 13). -/
def cycleExecute (s : State) : Host.Outcome State Fault Refusal :=
  if s.scratch.remaining > 1 then .next (s.setRemaining (s.scratch.remaining - 1))
  else if s.scratch.synth then .next s.finishSkip
  else
    match inFlight s with
    | .ok i => endOfCompletion (performInstr i (s.setPhase .fetch))
    | .error bad => .next ((s.setPhase .fetch).raise (.opcode bad.form bad.code))

/-- DECODE_B, and EXECUTE in the same cycle (40 R132, R137). -/
def cycleDecodeB (s : State) : Host.Outcome State Fault Refusal :=
  if (operandB s.scratch.fb).needsWord && !s.scratch.delayed then .next (s.setDelayed true)
  else cycleExecute ((s.resolveB (operandB s.scratch.fb)).setPhase .execute)

/-- DECODE_A, and the next phase in the same cycle (40 R132, R135). -/
def cycleDecodeA (s : State) : Host.Outcome State Fault Refusal :=
  if (operandA s.scratch.fa).needsWord && !s.scratch.delayed then .next (s.setDelayed true)
  else
    match s.scratch.form with
    | .basic => cycleDecodeB ((s.resolveA (operandA s.scratch.fa)).setPhase .decodeB)
    | .special => cycleExecute ((s.resolveA (operandA s.scratch.fa)).setPhase .execute)

/-- FETCH, and DECODE_A in the same cycle (40 R132, R133). An illegal opcode raises its error with PC advanced. -/
def cycleFetch (s : State) : Host.Outcome State Fault Refusal :=
  let latched := s.nextWord.after.latchWord s.nextWord.value
  match decode s.nextWord.value with
  | .ok i => cycleDecodeA (latched.startInstr (baseCost i))
  | .error bad => .next (latched.raise (.opcode bad.form bad.code))

/-- `step_cycle()` (40 R130 to R132). With an error latched it changes nothing (40 R131). -/
def stepCycle (s : State) : Host.Outcome State Fault Refusal :=
  match s.lastError with
  | some _ => .next s
  | none =>
    match s.scratch.step with
    | .fetch => cycleFetch s
    | .decodeA => cycleDecodeA s
    | .decodeB => cycleDecodeB s
    | .execute => cycleExecute s

/-- What the driver does after a cycle that ran: it counts it, and polls the keyboard unless the cycle returned an error
(70 R355; log entry 9). After an error it stops, and the running flag stays set until the host's `stop`: DESIGN CHOICE, the
spec does not say when the flag turns idle (log entry 19). -/
def State.afterCycle (s : State) : State :=
  match s.lastError with
  | some _ => s.countCycle
  | none => s.endCycle

/-- One turn of the driver's loop: a cycle, then the poll (70 R355). Nothing happens once an error is latched: the driver has
terminated (60 R305), with the running flag as it was (DESIGN CHOICE, log entry 19). -/
def driverCycle (s : State) : Host.Outcome State Fault Refusal :=
  match s.lastError with
  | some _ => .next s
  | none =>
    match stepCycle s with
    | .next s' => .next s'.afterCycle
    | .fault r => .fault r
    | .refused r => .refused r

/-- `n` turns of the driver's loop. -/
def driverRun : Nat → State → Host.Outcome State Fault Refusal
  | 0, s => .next s
  | n + 1, s =>
    match driverCycle s with
    | .next s' => driverRun n s'
    | .fault r => .fault r
    | .refused r => .refused r

/-- The state is at an instruction boundary: the next cycle fetches. -/
def State.atBoundary (s : State) : Bool := s.scratch.step = .fetch

/-- Turns of the driver's loop up to the next instruction boundary or latched error, at most `fuel`. -/
def runToBoundary : Nat → State → Host.Outcome State Fault Refusal
  | 0, s => .next s
  | fuel + 1, s =>
    if s.atBoundary || s.lastError.isSome then .next s
    else
      match driverCycle s with
      | .next s' => runToBoundary fuel s'
      | .fault r => .fault r
      | .refused r => .refused r

/-- More cycles than an instruction in flight can still take: two waits for next words, `remaining`, and the skip of at
most 65,536 instructions (40 R143). -/
def cyclesBound (s : State) : Nat := s.scratch.remaining + Config.memorySize + 8

end Sys2Proof.Machine
end

