-- ==== Sys2Proof/Machine/Step.lean ====
section
/-! DEFINITION. One step: the cycles of one instruction, with the poll after each (spec 40 R145; log entry 2). -/

namespace Sys2Proof.Machine

/-- FETCH and the rest of one instruction from a boundary (40 R133, R145): the word at PC is decoded and its instruction
runs; an illegal opcode raises OpcodeError with PC advanced. -/
def fetchAndRun (s : State) : Host.Outcome State Fault Refusal :=
  let latched := s.nextWord.after.latchWord s.nextWord.value
  match decode s.nextWord.value with
  | .ok i => exec i latched
  | .error bad => .next (latched.raise (.opcode bad.form bad.code)).countCycle

/-- One step. With an error latched nothing changes (40 R131, 60 R302). At an instruction boundary the next instruction
runs whole; with an instruction in flight, its remaining cycles run. -/
def step (s : State) : Host.Outcome State Fault Refusal :=
  match s.lastError with
  | some _ => .next s
  | none => if s.atBoundary then fetchAndRun s else runToBoundary (cyclesBound s) s

/-- The state with the instruction whose bits are `w` (numbered as spec/opcode_table.json numbers them) stored at PC, its
operand words, where the table gives no bits, 0; at an instruction boundary, no error latched, and no mapped region over
the three words, so that the very next step fetches and runs it. It stands for the host's program load (70 R352; log entry
15). -/
def State.withFetchWord (s : State) (nbits w : Nat) : State :=
  let pc := s.get .pc
  let bits := w % 2 ^ nbits
  let words := WordMem.write
    (WordMem.write (WordMem.write s.backing (pc + 2).toNat (truncNat (bits / 2 ^ 32))) (pc + 1).toNat
      (truncNat (bits / 2 ^ 16))) pc.toNat (truncNat bits)
  { s with
    backing := words
    mmap := s.mmap.filter (fun r =>
      !r.contains pc.toNat && !r.contains (pc + 1).toNat && !r.contains (pc + 2).toNat)
    lastError := none
    scratch := { s.scratch with step := .fetch } }

end Sys2Proof.Machine
end

