-- ==== Sys2Proof/Machine/HostPort.lean ====
section
/-! DEFINITION. The host's configuration port and machine layer (spec 20 R57 to R63, 60 R305, R309, R323, 70 R351 to R356):
what the host does to the block between cycles. No instruction does any of it. -/

namespace Sys2Proof.Machine

/-- The errors of the host's operations; they never come out of a cycle (60 R300). -/
inductive HostError where
  /-- A range runs past 0x10000 (20 R57, R59, 70 R352). -/
  | outOfBounds
  /-- The range shares an address with a mapped region (20 R57). -/
  | regionConflict
  /-- No mapped region has this start and length (20 R58). -/
  | noRegionMatches
  /-- The peripheral is mapped already (20 R58). -/
  | alreadyMapped
  /-- The peripheral is not mapped (20 R58). -/
  | notMapped
  /-- The loader is called while the machine runs, which 70 R352 rules out (log entry 16). -/
  | notIdle
  deriving DecidableEq, Repr

/-- The regions share an address (20 R51, R57): an empty region shares none. -/
def sharesAddress (start length start' length' : Nat) : Bool :=
  max start start' < min (start + length) (start' + length')

/-- Inserts a region keeping ascending start order, before regions of the same start (20 R57, R63; log entry 10). -/
def insertRegion (new : MapRegion) : List MapRegion → List MapRegion
  | [] => [new]
  | r :: rs => if new.start ≤ r.start then new :: r :: rs else r :: insertRegion new rs

/-- `map_region(start, length, …)` (20 R57). -/
def mapRegion (start : Word) (length : Nat) (dev : Device) (s : State) : Except HostError State :=
  if start.toNat + length > Config.memorySize then .error .outOfBounds
  else if s.mmap.any (fun r => sharesAddress start.toNat length r.start r.length) then .error .regionConflict
  else .ok { s with mmap := insertRegion { start := start.toNat, length := length, dev := dev } s.mmap }

/-- Takes out the first region of this start and length. -/
def removeRegion (start length : Nat) : List MapRegion → Option (List MapRegion)
  | [] => none
  | r :: rs =>
    if r.start = start ∧ r.length = length then some rs
    else
      match removeRegion start length rs with
      | some rest => some (r :: rest)
      | none => none

/-- `unmap_region(start, length)` (20 R58). -/
def unmapRegion (start : Word) (length : Nat) (s : State) : Except HostError State :=
  match removeRegion start.toNat length s.mmap with
  | some rest => .ok { s with mmap := rest }
  | none => .error .noRegionMatches

/-- `end()` (20 R51). -/
def Region.finish (r : Region) : Nat := r.start + r.length

/-- `union(other)`: the smallest interval covering both (20 R51). -/
def Region.union (r other : Region) : Region :=
  { start := min r.start other.start, length := max r.finish other.finish - min r.start other.start }

/-- Adds a range to the protected list: it merges with every region it touches or overlaps (20 R60). -/
def protectAdd (new : Region) : List Region → List Region
  | [] => [new]
  | r :: rs =>
    if new.finish < r.start then new :: r :: rs
    else if r.finish < new.start then r :: protectAdd new rs
    else protectAdd (new.union r) rs

/-- The part of a region below address `cut`. -/
def Region.below (r : Region) (cut : Nat) : Region :=
  { start := r.start, length := min r.finish cut - r.start }

/-- The part of a region from address `cut` on. -/
def Region.above (r : Region) (cut : Nat) : Region :=
  { start := max r.start cut, length := r.finish - max r.start cut }

/-- Removes a range from the protected list: a region that it cuts in two is split (20 R61). -/
def protectRemove (gone : Region) (prot : List Region) : List Region :=
  prot.flatMap (fun r =>
    if r.finish ≤ gone.start ∨ gone.finish ≤ r.start then [r]
    else [r.below gone.start, r.above gone.finish].filter (fun part => part.length ≠ 0))

/-- `mem_protect(start, length, protected)` (20 R59 to R61). -/
def memProtect (start : Word) (length : Nat) (protect : Bool) (s : State) : Except HostError State :=
  let range : Region := { start := start.toNat, length := length }
  if start.toNat + length > Config.memorySize then .error .outOfBounds
  else if length = 0 then .ok s
  else if protect then .ok { s with prot := protectAdd range s.prot }
  else .ok { s with prot := protectRemove range s.prot }

/-- Writes words into the backing store from an address on, past the router and protection (70 R352). -/
def loadWords (m : WordMem) (at' : Nat) : List Word → WordMem
  | [] => m
  | w :: ws => loadWords (WordMem.write m at' w) (at' + 1) ws

/-- `load_program(words, offset)`, only while idle (70 R352): nothing is written when the image runs past 0x10000. -/
def loadProgram (words : List Word) (offset : Nat) (s : State) : Except HostError State :=
  if s.running then .error .notIdle
  else if offset + words.length > Config.memorySize then .error .outOfBounds
  else .ok { s with backing := loadWords s.backing offset words }

/-- The image file's bytes as words, two bytes each, big-endian unless the flag says little-endian; an odd final byte is
dropped (70 R353). -/
def wordsOfImage (littleEndian : Bool) : List (BitVec 8) → List Word
  | first :: second :: rest =>
    (if littleEndian then second ++ first else first ++ second) :: wordsOfImage littleEndian rest
  | _ => []

/-- Maps the video peripheral at its base (20 R58, 60 R309). -/
def mapVideo (base : Word) (s : State) : Except HostError State :=
  if s.mmap.any (fun r => r.dev.isVideo) then .error .alreadyMapped
  else mapRegion base Config.videoLength .freshVideo s

/-- Maps the keyboard peripheral at its base (20 R58, 60 R309, R316). -/
def mapKeyboard (base : Word) (s : State) : Except HostError State :=
  if s.mmap.any (fun r => r.dev.isKeyboard) then .error .alreadyMapped
  else mapRegion base Config.keyboardLength .freshKeyboard s

/-- Unmaps the peripheral that `kind` picks out, at the base it was mapped at (20 R58). -/
def unmapPeripheral (kind : Device → Bool) (s : State) : Except HostError State :=
  match s.mmap.find? (fun r => kind r.dev) with
  | none => .error .notMapped
  | some r => unmapRegion (BitVec.ofNat 16 r.start) r.length s

/-- `start(rate)` (70 R354): video and keyboard are mapped at their configured bases, the cycle counter zeroed, the driver
launched. A failure releases what was acquired: the state is as before. -/
def hostStart (videoBase keyboardBase : Word) (s : State) : Except HostError State :=
  match mapVideo videoBase s with
  | .error e => .error e
  | .ok withVideo =>
    match mapKeyboard keyboardBase withVideo with
    | .error e => .error e
    | .ok withBoth => .ok { withBoth with cycleCount := 0, running := true }

/-- `MachineError{underlying, pc}` (60 R305). -/
structure MachineError where
  underlying : Error
  pc : Word
  deriving DecidableEq, Repr

/-- The latched error as the host reports it, stamped with PC (60 R305, 92 D27). That the running flag stays set until `stop`
after the driver has terminated is a DESIGN CHOICE (log entry 19). -/
def machineError (s : State) : Option MachineError :=
  match s.lastError with
  | some e => some { underlying := e, pc := s.get .pc }
  | none => none

/-- `has_error()` (70 R356). -/
def hasError (s : State) : Bool := s.lastError.isSome

/-- The state with a peripheral unmapped, or as it was if it is not mapped (log entry 17). -/
def release (kind : Device → Bool) (s : State) : State :=
  match unmapPeripheral kind s with
  | .ok s' => s'
  | .error _ => s

/-- `stop()` (70 R356): the driver stops, the peripherals are unmapped, any latched error is returned. Everything else is
kept, also for a later start (70 R351). -/
def hostStop (s : State) : State × Option MachineError :=
  ({ release Device.isKeyboard (release Device.isVideo s) with running := false }, machineError s)

end Sys2Proof.Machine
end

