-- ==== Sys2Proof/Safety.lean ====
section
/-! DEFINITION. The terms claims use: what a well-formed state is (spec 10 R39 and the ranges of R31 to R36), when a
write-back is accepted, and which addresses only the program changes. -/

namespace Sys2Proof.Machine

/-- No error is latched: the block still runs (60 R302). -/
abbrev State.Safe (s : State) : Prop := s.lastError = none

/-- The data of a device is in its canonical form. -/
def Device.wf (d : Device) : Bool :=
  match d with
  | .video cells => WordMem.wf cells
  | .buffer words => WordMem.wf words
  | .keyboard _ _ _ => true
  | .external _ _ => true

/-- A word stored at the offset is what a load of it answers until the next store or poll: the video device, a buffer, and the
keyboard's sixteen slots (60 R314, R315, 95 S4). -/
def Device.keepsWord (d : Device) (offset : Nat) : Bool :=
  match d with
  | .video _ => true
  | .buffer _ => true
  | .keyboard _ _ _ => offset < 16
  | .external _ _ => false

/-- The protected list is in its one form: no empty region, ascending, none touching or overlapping the next, all inside
the address space (10 R34, R35, R39). -/
abbrev protWf (prot : List Region) : Prop :=
  prot.Pairwise (fun r later => r.finish < later.start) ∧
    ∀ r ∈ prot, 0 < r.length ∧ r.finish ≤ Config.memorySize

/-- The mapped list is ascending by start, no two regions share an address, each lies inside the address space (10 R36,
R39; log entry 10), and each device's data is canonical. -/
abbrev mmapWf (mm : List MapRegion) : Prop :=
  mm.Pairwise (fun r later =>
    r.start ≤ later.start ∧ sharesAddress r.start r.length later.start later.length = false) ∧
    ∀ r ∈ mm, r.start + r.length ≤ Config.memorySize ∧ r.dev.wf

/-- The opcode in flight has a row in the opcode maps. -/
def State.legalInFlight (s : State) : Bool :=
  match inFlight s with
  | .ok _ => true
  | .error _ => false

/-- The scratch fields agree with each other (10 R31, 40 R132): `remaining` is at least 1; past FETCH the opcode in flight
is legal; only a basic instruction is in DECODE_B; the synthesised SET is in flight in EXECUTE only; the delayed latch is
set only while an operand waits for its next word. -/
abbrev State.scratchWf (s : State) : Prop :=
  1 ≤ s.scratch.remaining ∧
  (s.scratch.step ≠ .fetch → s.legalInFlight = true) ∧
  (s.scratch.step = .decodeB → s.scratch.form = .basic) ∧
  (s.scratch.synth = true → s.scratch.step = .execute) ∧
  (s.scratch.delayed = true →
    (s.scratch.step = .decodeA ∧ (operandA s.scratch.fa).needsWord = true) ∨
    (s.scratch.step = .decodeB ∧ (operandB s.scratch.fb).needsWord = true))

/-- The invariant of the machine: memory, protected list, mapped list and scratch are well formed (10 R39, R31, R36). -/
abbrev State.Inv (s : State) : Prop :=
  WordMem.wf s.backing ∧ protWf s.prot ∧ mmapWf s.mmap ∧ s.scratchWf

/-- A write-back to the target is not refused: only a store to a protected, unmapped word is (20 R53, R72). -/
def State.accepts (s : State) (target : Address) : Bool :=
  match target with
  | .none => true
  | .register _ => true
  | .memory ad => !s.storeRefused ad

/-- Nothing but a program's stores changes what a load of the address answers: it is in the backing store, the video device
or a buffer. A keyboard slot may be written by the poll, and any other device answers freely. -/
def State.quietAt (s : State) (ad : Word) : Bool :=
  match regionAt s.mmap ad.toNat with
  | none => true
  | some r =>
    match r.dev with
    | .video _ => true
    | .buffer _ => true
    | .keyboard _ _ _ => false
    | .external _ _ => false

/-- No device but the ones the spec describes is mapped: no load has a side effect. -/
def State.noExternal (s : State) : Bool :=
  s.mmap.all (fun r =>
    match r.dev with
    | .external _ _ => false
    | _ => true)

/-- The mapped regions without their devices' data: where they lie. -/
def regionBounds (mm : List MapRegion) : List Region :=
  mm.map (fun r => { start := r.start, length := r.length })

/-- What only a store, the host or an error changes is as before: the backing store, P, the latched error, the running flag,
where the regions lie, and what every quiet address answers. -/
structure State.KeepsMemory (s t : State) : Prop where
  backing : t.backing = s.backing
  prot : t.prot = s.prot
  lastError : t.lastError = s.lastError
  running : t.running = s.running
  bounds : regionBounds t.mmap = regionBounds s.mmap
  quiet : ∀ ad, s.quietAt ad = true → t.quietAt ad = true ∧ t.loadValue ad = s.loadValue ad

end Sys2Proof.Machine

/-- An operand that moves SP while it resolves (30 R92). -/
def Sys2Proof.Operand.movesSp (o : Sys2Proof.Operand) : Bool := o = .push || o = .pop
end

