-- ==== Sys2Proof/Certificates/Slice0/Obligations.lean ====
section
/-! DEFINITION. The statements for the provers, and the shared shapes they are written in. Numbers are the spec's rules. -/

namespace Sys2Proof.Claims

open Sys2Proof.Machine

/-- The instruction's word has the form and code of its row, and decodes to the instruction again (30 R91, R98, R99). -/
def EncodesAs (i : Instr) (form : Form) (code : BitVec 5) : Prop :=
  i.wf = true → formOf (encode i) = form ∧ opOf (encode i) = code ∧ decode (encode i) = .ok i

/-- The regions `now` lie where those of `before` do, with the same devices, but for a keyboard that may have taken an event
at the poll between two cycles (60 R318). Which keyboard, and which event, if any, is left open. -/
def Polled (before now : List MapRegion) : Prop :=
  regionBounds now = regionBounds before ∧
  ∀ q, ∃ event, regionAt now q = (regionAt before q).map (fun g => { g with dev := g.dev.poll event })

/-- The same with `n` polls between, one at the end of each of `n` cycles (60 R318): a device changes by polls alone. -/
def PolledTimes (n : Nat) (before now : List MapRegion) : Prop :=
  regionBounds now = regionBounds before ∧
  ∀ q, ∃ events : List (Option KeyEvent), events.length = n ∧
    regionAt now q =
      (regionAt before q).map (fun g => { g with dev := events.foldl (fun d event => d.poll event) g.dev })

/-- The regions `now` lie where those of `before` do, and a device changes by loads alone (20 R52, R68). -/
def LoadedOnly (before now : List MapRegion) : Prop :=
  regionBounds now = regionBounds before ∧
  ∀ q, ∃ offsets : List Nat,
    regionAt now q =
      (regionAt before q).map (fun g => { g with dev := offsets.foldl (fun d offset => d.afterLoad offset) g.dev })

/-- From the completing cycle `r` to the boundary `t` the memory changes by the write-back of `v` to `target` alone (20 R53,
40 R140), and by the poll at the end of the cycle. -/
def Stored (r t : State) (target : Address) (v : Word) : Prop :=
  (∀ ad : Word, WordMem.read t.backing ad.toNat =
    if target = .memory ad ∧ r.isMapped ad = false then v else WordMem.read r.backing ad.toNat) ∧
  t.prot = r.prot ∧
  Polled
    (match target with
      | .memory ad => updateRegion ad.toNat (fun offset d => d.afterStore offset v) r.mmap
      | _ => r.mmap)
    t.mmap

/-- The instruction ends in the latched error `e`, with the registers `regs` and the memory of `r` (60 R302, R303). The
devices are those of `r` too: no poll follows the cycle that raised, by 70 R355 as log entry 9 reads it. -/
def EndsInError (i : Instr) (s r : State) (e : Error) (regs : Reg → Word) : Prop :=
  ∃ t, exec i s = .next t ∧ t.lastError = some e ∧ (∀ q, t.get q = regs q) ∧ t.backing = r.backing ∧ t.mmap = r.mmap ∧ t.prot = r.prot

/-- What an instruction that writes b does (41 R170), for every operand form: its encoding; if the write-back is accepted,
it completes, `value` goes to the target and `ex` to EX before it; if the store is refused, ProtectionError is latched, EX
already written. `ex` and `value` are given b, a and the old EX. -/
def WritesB (mk : Operand → Operand → Instr) (code : BitVec 5) (cost : Nat) (ex value : Word → Word → Word → Word) :
    Prop :=
  ∀ (b a : Operand) (s : State),
    let r := basicAtCompletion cost b a s
    let v := value r.scratch.vb r.scratch.va (r.get .ex)
    let x := ex r.scratch.vb r.scratch.va (r.get .ex)
    EncodesAs (mk b a) .basic code ∧
    (r.accepts r.scratch.addrB = true →
      ∃ t, exec (mk b a) s = .next t ∧ t.scratch.step = .fetch ∧ t.lastError = s.lastError ∧
        t.cycleCount = s.cycleCount + cost + a.ext + b.ext ∧
        (∀ q, t.get q = if r.scratch.addrB = .register q then v else if q = .ex then x else r.get q) ∧
        Stored r t r.scratch.addrB v) ∧
    (∀ ad, r.scratch.addrB = .memory ad → r.storeRefused ad = true →
      EndsInError (mk b a) s r (.protection ad) (fun q => if q = .ex then x else r.get q))

/-- What an IFx does (43 R240, R249 to R251), for every operand form: its encoding; a true predicate goes on to the next
instruction; a false one skips to the end of the chain at the chain's cost, and a device changes by the scan's loads and
the polls after its cycles alone. A chain without an end is in SkipChainIsStuckExactlyWhenAllConditional. -/
def Conditional (mk : Operand → Operand → Instr) (code : BitVec 5) (holds : Word → Word → Prop) : Prop :=
  ∀ (b a : Operand) (s : State),
    let r := basicAtCompletion 2 b a s
    EncodesAs (mk b a) .basic code ∧
    (holds r.scratch.vb r.scratch.va →
      ∃ t, exec (mk b a) s = .next t ∧ t.scratch.step = .fetch ∧ t.lastError = s.lastError ∧
        t.cycleCount = s.cycleCount + 2 + a.ext + b.ext ∧ (∀ q, t.get q = r.get q) ∧
        t.backing = s.backing ∧ t.prot = s.prot ∧ Polled r.mmap t.mmap) ∧
    (¬ holds r.scratch.vb r.scratch.va →
      ∀ chain, scanChain 0x10000 (r.get .pc) 0 r = some chain →
        ∃ t, exec (mk b a) s = .next t ∧ t.scratch.step = .fetch ∧ t.scratch.synth = false ∧
          t.lastError = s.lastError ∧ t.cycleCount = s.cycleCount + 2 + a.ext + b.ext + chain.skipped ∧
          (∀ q, t.get q = if q = .pc then chain.nextPc else r.get q) ∧
          t.backing = s.backing ∧ t.prot = s.prot ∧ LoadedOnly r.mmap chain.after.mmap ∧
          PolledTimes (chain.skipped + 1) chain.after.mmap t.mmap)

/-- What a special instruction that writes `value` back to a does (44 R269): IAG and HWN. -/
def WritesA (mk : Operand → Instr) (code : BitVec 5) (cost : Nat) (value : State → Word) : Prop :=
  ∀ (a : Operand) (s : State),
    let r := specialAtCompletion cost a s
    EncodesAs (mk a) .special code ∧
    (r.accepts r.scratch.addrA = true →
      ∃ t, exec (mk a) s = .next t ∧ t.scratch.step = .fetch ∧ t.lastError = s.lastError ∧
        t.cycleCount = s.cycleCount + cost + a.ext ∧
        (∀ q, t.get q = if r.scratch.addrA = .register q then value r else r.get q) ∧
        Stored r t r.scratch.addrA (value r)) ∧
    (∀ ad, r.scratch.addrA = .memory ad → r.storeRefused ad = true →
      EndsInError (mk a) s r (.protection ad) (fun q => r.get q))

/-- What a special instruction that stores nothing and cannot fail does (44 R269): it completes with the registers `regs`
of the state in its completing cycle. -/
def WritesRegisters (mk : Operand → Instr) (code : BitVec 5) (cost : Nat) (regs : State → Reg → Word) : Prop :=
  ∀ (a : Operand) (s : State),
    let r := specialAtCompletion cost a s
    EncodesAs (mk a) .special code ∧
    ∃ t, exec (mk a) s = .next t ∧ t.scratch.step = .fetch ∧ t.lastError = s.lastError ∧
      t.cycleCount = s.cycleCount + cost + a.ext ∧ (∀ q, t.get q = regs r q) ∧
      t.backing = s.backing ∧ t.prot = s.prot ∧ Polled r.mmap t.mmap

/-- A memory operand resolved at `ad` in the state `s`: its word is loaded once (40 R136). -/
def LoadedAt (s : State) (ad : Word) (r : Resolved) : Prop :=
  r = { value := s.loadValue ad, target := .memory ad, after := s.afterLoad ad }

/-- What 40 R136 answers for the operand classes 0x00 to 0x1f other than 0x18. -/
def ClassMeans (s : State) (c : Nat) (r : Resolved) : Prop :=
  let n := s.nextWord
  (∀ q : Reg, q.index.val = c → c < 0x08 → r = { value := s.get q, target := .register q, after := s }) ∧
  (∀ q : Reg, q.index.val + 0x08 = c → c < 0x10 → LoadedAt s (s.get q) r) ∧
  (∀ q : Reg, q.index.val + 0x10 = c → c < 0x18 → LoadedAt n.after (n.value + s.get q) r) ∧
  (c = 0x19 → LoadedAt s (s.get .sp) r) ∧
  (c = 0x1a → LoadedAt n.after (s.get .sp + n.value) r) ∧
  (c = 0x1b → r = { value := s.get .sp, target := .register .sp, after := s }) ∧
  (c = 0x1c → r = { value := s.get .pc, target := .register .pc, after := s }) ∧
  (c = 0x1d → r = { value := s.get .ex, target := .register .ex, after := s }) ∧
  (c = 0x1e → LoadedAt n.after n.value r) ∧
  (c = 0x1f → r = { value := n.value, target := .none, after := n.after })

/-- The memory of `t` is that of `s` but for the addresses of `stored`: the backing store, P, where the regions lie, and
what every quiet address answers. The running flag is that of `s` too, where an error has been raised by the model's choice
(log entry 19). -/
def MemoryFrame (s t : State) (stored : Word → Prop) : Prop :=
  (∀ ad : Word, ¬ stored ad → WordMem.read t.backing ad.toNat = WordMem.read s.backing ad.toNat) ∧
  (∀ ad : Word, ¬ stored ad → s.quietAt ad = true → t.loadValue ad = s.loadValue ad) ∧
  t.prot = s.prot ∧ regionBounds t.mmap = regionBounds s.mmap ∧ t.running = s.running

/-- The IFx instructions (30 R102). -/
def isConditional : Instr → Bool
  | .ifb _ _ | .ifc _ _ | .ife _ _ | .ifn _ _ | .ifg _ _ | .ifa _ _ | .ifl _ _ | .ifu _ _ => true
  | _ => false

/-- The predicate of an IFx on the values of b and a (43 R241 to R248). -/
def predicateOf (i : Instr) (b a : Word) : Bool :=
  match i with
  | .ifb _ _ => b &&& a ≠ 0
  | .ifc _ _ => b &&& a = 0
  | .ife _ _ => b = a
  | .ifn _ _ => b ≠ a
  | .ifg _ _ => a.toNat < b.toNat
  | .ifa _ _ => a.toInt < b.toInt
  | .ifl _ _ => b.toNat < a.toNat
  | .ifu _ _ => b.toInt < a.toInt
  | _ => true

/-- STI, the one basic instruction that also updates I and J (41 R181). -/
def isSti : Instr → Bool
  | .sti _ _ => true
  | _ => false

/-- The basic instructions that leave EX unchanged unless it is their target (10 R27). -/
def leavesEx : Instr → Bool
  | .set _ _ | .mod _ _ | .and _ _ | .bor _ _ | .xor _ _ | .sti _ _ => true
  | i => isConditional i

/-- The registers other than PC and the ones its operand moves that a special instruction may write (44 R270 to R277). -/
def specialWrites (r : State) : Instr → Reg → Prop
  | .jsr _, q => q = .sp
  | .int _, q => q = .sp ∨ q = .a
  | .iag _, q => r.scratch.addrA = .register q
  | .hwn _, q => r.scratch.addrA = .register q
  | .ias _, q => q = .ia
  | .hwq _, q => q = .a ∨ q = .b ∨ q = .c ∨ q = .x ∨ q = .y
  | _, _ => False

/-- The addresses a special instruction may store to (44 R270 to R277). -/
def specialStores (r : State) : Instr → Word → Prop
  | .jsr _, ad => ad = r.get .sp - 1
  | .int _, ad => ad = r.get .sp - 1 ∨ ad = r.get .sp - 2
  | .iag _, ad => r.scratch.addrA = .memory ad
  | .hwn _, ad => r.scratch.addrA = .memory ad
  | _, _ => False

/-- The address of the next instruction's first word in a chain, from the address of one (43 R250). -/
def chainStep (s : State) (p : Word) : Word := p + BitVec.ofNat 16 (lengthOf (s.loadValue p))

/-- `ext(c)` of 30 R95, from the number of the operand class. -/
def extOf (c : Nat) : Nat :=
  if c ∈ [0x10, 0x11, 0x12, 0x13, 0x14, 0x15, 0x16, 0x17, 0x1a, 0x1e, 0x1f] then 1 else 0

/-- The cycle machine from a state to the next instruction boundary or latched error: at least one cycle. -/
def runOneByCycles (s : State) : Host.Outcome State Fault Refusal :=
  match driverCycle s with
  | .next s' => runToBoundary (cyclesBound s') s'
  | .fault r => .fault r
  | .refused r => .refused r

end Sys2Proof.Claims

open Sys2Proof Sys2Proof.Machine Sys2Proof.Claims

/-! ### The instructions -/

/-- 41 R171. -/
def Obligations.SetMovesSourceToDestination : Prop :=
  WritesB .set 0x01 1 (fun _ _ ex => ex) (fun _ a _ => a)

/-- 41 R172. -/
def Obligations.AddWritesSumAndCarry : Prop :=
  WritesB .add 0x02 2 (fun b a _ => if b.toNat + a.toNat > 0xFFFF then 1 else 0) (fun b a _ => b + a)

/-- 41 R173. -/
def Obligations.SubWritesDifferenceAndBorrow : Prop :=
  WritesB .sub 0x03 2 (fun b a _ => if b.toNat < a.toNat then 0xFFFF else 0) (fun b a _ => b - a)

/-- 41 R174. -/
def Obligations.MulWritesProductHalves : Prop :=
  WritesB .mul 0x04 2 (fun b a _ => BitVec.ofNat 16 (b.toNat * a.toNat / 0x10000)) (fun b a _ => b * a)

/-- 41 R175. -/
def Obligations.MliWritesSignedProductHalves : Prop :=
  WritesB .mli 0x05 2 (fun b a _ => BitVec.ofInt 16 (b.toInt * a.toInt / 0x10000)) (fun b a _ => b * a)

/-- 41 R176. -/
def Obligations.DivWritesQuotientAndFraction : Prop :=
  WritesB .div 0x06 3 (fun b a _ => if a = 0 then 0 else BitVec.ofNat 16 (b.toNat * 0x10000 / a.toNat))
    (fun b a _ => if a = 0 then 0 else BitVec.ofNat 16 (b.toNat / a.toNat))

/-- 41 R177. -/
def Obligations.DviWritesSignedQuotientAndFraction : Prop :=
  WritesB .dvi 0x07 3 (fun b a _ => if a = 0 then 0 else BitVec.ofInt 16 ((b.toInt * 0x10000).tdiv a.toInt))
    (fun b a _ => if a = 0 then 0 else BitVec.ofInt 16 (b.toInt.tdiv a.toInt))

/-- 41 R178. -/
def Obligations.ModWritesRemainderKeepsEx : Prop :=
  WritesB .mod 0x08 3 (fun _ _ ex => ex) (fun b a _ => if a = 0 then 0 else BitVec.ofNat 16 (b.toNat % a.toNat))

/-- 41 R179. -/
def Obligations.AdxAddsExWithCarry : Prop :=
  WritesB .adx 0x1a 3 (fun b a ex => if b.toNat + a.toNat + ex.toNat > 0xFFFF then 1 else 0)
    (fun b a ex => b + a + ex)

/-- 41 R180. -/
def Obligations.SbxSubtractsAddingEx : Prop :=
  WritesB .sbx 0x1b 3
    (fun b a ex => if b.toNat + ex.toNat < a.toNat then 0xFFFF
      else if b.toNat + ex.toNat > 0xFFFF + a.toNat then 1 else 0)
    (fun b a ex => b - a + ex)

/-- 41 R181. -/
def Obligations.StiStoresThenIncrementsIJ : Prop :=
  ∀ (b a : Operand) (s : State),
    let r := basicAtCompletion 2 b a s
    EncodesAs (.sti b a) .basic 0x0f ∧
    (r.accepts r.scratch.addrB = true →
      ∃ t, exec (.sti b a) s = .next t ∧ t.scratch.step = .fetch ∧ t.lastError = s.lastError ∧
        t.cycleCount = s.cycleCount + 2 + a.ext + b.ext ∧
        (∀ q, t.get q = (if r.scratch.addrB = .register q then r.scratch.va else r.get q) +
          (if q = .i ∨ q = .j then 1 else 0)) ∧
        Stored r t r.scratch.addrB r.scratch.va) ∧
    (∀ ad, r.scratch.addrB = .memory ad → r.storeRefused ad = true →
      EndsInError (.sti b a) s r (.protection ad) (fun q => r.get q))

/-- 42 R211, R212, R213. -/
def Obligations.AndBorXorWriteBitwiseResultKeepEx : Prop :=
  WritesB .and 0x09 1 (fun _ _ ex => ex) (fun b a _ => b &&& a) ∧
  WritesB .bor 0x0a 1 (fun _ _ ex => ex) (fun b a _ => b ||| a) ∧
  WritesB .xor 0x0b 1 (fun _ _ ex => ex) (fun b a _ => b ^^^ a)

/-- 42 R214. -/
def Obligations.ShrShiftsRightIntoEx : Prop :=
  WritesB .shr 0x0c 2 (fun b a _ => BitVec.ofNat 16 (b.toNat * 0x10000 / 2 ^ a.toNat))
    (fun b a _ => BitVec.ofNat 16 (b.toNat / 2 ^ a.toNat))

/-- 42 R215. -/
def Obligations.AsrShiftsSignedRightIntoEx : Prop :=
  WritesB .asr 0x0d 2 (fun b a _ => BitVec.ofInt 16 (b.toInt * 0x10000 / 2 ^ a.toNat))
    (fun b a _ => BitVec.ofInt 16 (b.toInt / 2 ^ a.toNat))

/-- 42 R216. -/
def Obligations.ShlShiftsLeftIntoEx : Prop :=
  WritesB .shl 0x0e 2 (fun b a _ => BitVec.ofNat 16 (b.toNat * 2 ^ a.toNat / 0x10000))
    (fun b a _ => BitVec.ofNat 16 (b.toNat * 2 ^ a.toNat))

/-- 43 R241. -/
def Obligations.IfbSkipsUnlessBitsSet : Prop := Conditional .ifb 0x10 (fun b a => b &&& a ≠ 0)

/-- 43 R242. -/
def Obligations.IfcSkipsUnlessBitsClear : Prop := Conditional .ifc 0x11 (fun b a => b &&& a = 0)

/-- 43 R243. -/
def Obligations.IfeSkipsUnlessEqual : Prop := Conditional .ife 0x12 (fun b a => b = a)

/-- 43 R244. -/
def Obligations.IfnSkipsUnlessDifferent : Prop := Conditional .ifn 0x13 (fun b a => b ≠ a)

/-- 43 R245. -/
def Obligations.IfgSkipsUnlessGreaterUnsigned : Prop := Conditional .ifg 0x14 (fun b a => a.toNat < b.toNat)

/-- 43 R246. -/
def Obligations.IfaSkipsUnlessAboveSigned : Prop := Conditional .ifa 0x15 (fun b a => a.toInt < b.toInt)

/-- 43 R247. -/
def Obligations.IflSkipsUnlessLessUnsigned : Prop := Conditional .ifl 0x16 (fun b a => b.toNat < a.toNat)

/-- 43 R248. -/
def Obligations.IfuSkipsUnlessUnderSigned : Prop := Conditional .ifu 0x17 (fun b a => b.toInt < a.toInt)

/-- 44 R270. -/
def Obligations.JsrPushesPcAndJumps : Prop :=
  ∀ (a : Operand) (s : State),
    let r := specialAtCompletion 3 a s
    let sp := r.get .sp - 1
    EncodesAs (.jsr a) .special 0x01 ∧
    (r.storeRefused sp = false →
      ∃ t, exec (.jsr a) s = .next t ∧ t.scratch.step = .fetch ∧ t.lastError = s.lastError ∧
        t.cycleCount = s.cycleCount + 3 + a.ext ∧
        (∀ q, t.get q = if q = .sp then sp else if q = .pc then r.scratch.va else r.get q) ∧
        Stored r t (.memory sp) (r.get .pc)) ∧
    (r.storeRefused sp = true →
      EndsInError (.jsr a) s r (.protection sp) (fun q => if q = .sp then sp else r.get q))

/-- 44 R271. That the raising cycle is counted is the model's choice (log entry 9). -/
def Obligations.HcfLatchesHaltError : Prop :=
  ∀ (a : Operand) (s : State),
    let r := specialAtCompletion 9 a s
    EncodesAs (.hcf a) .special 0x07 ∧ EndsInError (.hcf a) s r .halt (fun q => r.get q) ∧
    ∀ t, exec (.hcf a) s = .next t → t.cycleCount = s.cycleCount + 9 + a.ext

/-- 44 R272. -/
def Obligations.IntPushesPcAndAThenJumpsToIa : Prop :=
  ∀ (a : Operand) (s : State),
    let r := specialAtCompletion 4 a s
    let sp1 := r.get .sp - 1
    let sp2 := r.get .sp - 2
    EncodesAs (.int a) .special 0x08 ∧
    (r.storeRefused sp1 = false → r.storeRefused sp2 = false →
      ∃ t, exec (.int a) s = .next t ∧ t.scratch.step = .fetch ∧ t.lastError = s.lastError ∧
        t.cycleCount = s.cycleCount + 4 + a.ext ∧
        (∀ q, t.get q = if q = .sp then sp2 else if q = .a then r.scratch.va
          else if q = .pc then r.get .ia else r.get q) ∧
        (∀ ad : Word, WordMem.read t.backing ad.toNat =
          if ad = sp2 ∧ r.isMapped sp2 = false then r.get .a
          else if ad = sp1 ∧ r.isMapped sp1 = false then r.get .pc
          else WordMem.read r.backing ad.toNat) ∧
        t.prot = r.prot ∧
        Polled
          (updateRegion sp2.toNat (fun offset d => d.afterStore offset (r.get .a))
            (updateRegion sp1.toNat (fun offset d => d.afterStore offset (r.get .pc)) r.mmap))
          t.mmap) ∧
    (r.storeRefused sp1 = true →
      EndsInError (.int a) s r (.protection sp1) (fun q => if q = .sp then sp1 else r.get q)) ∧
    (r.storeRefused sp1 = false → r.storeRefused sp2 = true →
      ∃ t, exec (.int a) s = .next t ∧ t.lastError = some (.protection sp2) ∧
        (∀ q, t.get q = if q = .sp then sp2 else r.get q) ∧
        (∀ ad : Word, WordMem.read t.backing ad.toNat =
          if ad = sp1 ∧ r.isMapped sp1 = false then r.get .pc else WordMem.read r.backing ad.toNat) ∧
        t.prot = r.prot ∧
        t.mmap = updateRegion sp1.toNat (fun offset d => d.afterStore offset (r.get .pc)) r.mmap)

/-- 44 R273. -/
def Obligations.IagWritesIaToOperand : Prop := WritesA .iag 0x09 1 (fun r => r.get .ia)

/-- 44 R274. -/
def Obligations.IasSetsIa : Prop :=
  WritesRegisters .ias 0x0a 1 (fun r q => if q = .ia then r.scratch.va else r.get q)

/-- 44 R275. -/
def Obligations.HwnWritesZeroToOperand : Prop := WritesA .hwn 0x10 2 (fun _ => 0)

/-- 44 R276. -/
def Obligations.HwqClearsAToY : Prop :=
  WritesRegisters .hwq 0x11 4
    (fun r q => if q = .a ∨ q = .b ∨ q = .c ∨ q = .x ∨ q = .y then 0 else r.get q)

/-- 44 R277. -/
def Obligations.HwiOnlyResolvesItsOperand : Prop := WritesRegisters .hwi 0x12 4 (fun r q => r.get q)

/-! ### Operands -/

/-- 40 R136, with the next word of R134: one load of the word at PC, and PC past it (20 R67). -/
def Obligations.OperandClassesResolveByTable : Prop :=
  ∀ s : State,
    (s.nextWord.value = s.loadValue (s.get .pc) ∧
      s.nextWord.after = (s.afterLoad (s.get .pc)).setReg .pc (s.get .pc + 1) ∧
      ∀ q, s.nextWord.after.get q = if q = .pc then s.get .pc + 1 else s.get q) ∧
    (∀ c : BitVec 6, c.toNat < 0x20 → c.toNat ≠ 0x18 → ClassMeans s c.toNat (resolve (operandA c) s)) ∧
    (∀ c : BitVec 5, c.toNat ≠ 0x18 → ClassMeans s c.toNat (resolve (operandB c) s)) ∧
    LoadedAt (s.setReg .sp (s.get .sp + 1)) (s.get .sp) (resolve (operandA 0x18) s) ∧
    LoadedAt (s.setReg .sp (s.get .sp - 1)) (s.get .sp - 1) (resolve (operandB 0x18) s) ∧
    (∀ c : BitVec 6, 0x20 ≤ c.toNat →
      resolve (operandA c) s = { value := BitVec.ofInt 16 ((c.toNat : Int) - 0x21), target := .none, after := s })

/-- 30 R96, 40 R137, R142: a resolves first, b in the state a leaves, each after the cycle its next word takes. That an IFx
keeps the resolved addresses too is the model's choice (log entry 20). -/
def Obligations.SourceResolvesBeforeDestination : Prop :=
  ∀ (cost : Nat) (b a : Operand) (s : State),
    let ra := resolve a (if a.needsWord then s.endCycle else s)
    let rb := resolve b (if b.needsWord then ra.after.endCycle else ra.after)
    let r := basicAtCompletion cost b a s
    r.scratch.va = ra.value ∧ r.scratch.addrA = ra.target ∧ r.scratch.vb = rb.value ∧ r.scratch.addrB = rb.target ∧
      r.regs = rb.after.regs ∧
      (specialAtCompletion cost a s).scratch.va = ra.value ∧
      (specialAtCompletion cost a s).scratch.addrA = ra.target ∧
      (specialAtCompletion cost a s).regs = ra.after.regs

/-- 40 R136, R137: up to its completing cycle an instruction changes PC by its next words, SP by PUSH and POP, and
otherwise no register, nothing in the backing store and no protection. -/
def Obligations.OperandsChangeOnlyPcAndSp : Prop :=
  ∀ (cost : Nat) (b a : Operand) (s : State),
    s.KeepsMemory (basicAtCompletion cost b a s) ∧ s.KeepsMemory (specialAtCompletion cost a s) ∧
    (∀ q, q ≠ .pc → q ≠ .sp → (basicAtCompletion cost b a s).get q = s.get q ∧
      (specialAtCompletion cost a s).get q = s.get q) ∧
    (basicAtCompletion cost b a s).get .pc = s.get .pc + BitVec.ofNat 16 (a.ext + b.ext) ∧
    (specialAtCompletion cost a s).get .pc = s.get .pc + BitVec.ofNat 16 a.ext ∧
    (b.okB = true → a.okA = true →
      (basicAtCompletion cost b a s).get .sp =
        s.get .sp + (if a = .pop then 1 else 0) - (if b = .push then 1 else 0) ∧
      (specialAtCompletion cost a s).get .sp = s.get .sp + (if a = .pop then 1 else 0))

/-! ### Frames -/

/-- 41 R170, 10 R27: what a basic instruction that is no IFx leaves unchanged. That the running flag stays where the store was
refused is the model's choice (log entry 19). -/
def Obligations.BasicWritesLeaveTheRestUnchanged : Prop :=
  ∀ (i : Instr) (b a : Operand) (s t : State),
    i.operands = (some b, a) → isConditional i = false → exec i s = .next t →
    let r := basicAtCompletion (baseCost i) b a s
    (∀ q, q ≠ .pc → q ≠ .ex → r.scratch.addrB ≠ .register q →
      (q = .sp → a.movesSp = false ∧ b.movesSp = false) → (isSti i = true → q ≠ .i ∧ q ≠ .j) →
      t.get q = s.get q) ∧
    (leavesEx i = true → r.scratch.addrB ≠ .register .ex → t.get .ex = s.get .ex) ∧
    MemoryFrame s t (fun ad => r.scratch.addrB = .memory ad) ∧
    (t.lastError = s.lastError ∨
      ∃ ad, r.scratch.addrB = .memory ad ∧ r.storeRefused ad = true ∧ t.lastError = some (.protection ad))

/-- 43 R240: what an IFx leaves unchanged. -/
def Obligations.ConditionalsLeaveTheRestUnchanged : Prop :=
  ∀ (i : Instr) (b a : Operand) (s t : State),
    i.operands = (some b, a) → isConditional i = true → exec i s = .next t →
    (∀ q, q ≠ .pc → (q = .sp → a.movesSp = false ∧ b.movesSp = false) → t.get q = s.get q) ∧
    MemoryFrame s t (fun _ => False) ∧ t.lastError = s.lastError

/-- 44 R269 to R277: what a special instruction leaves unchanged. That the running flag stays where HCF, a refused push or a
refused write-back has raised is the model's choice (log entry 19). -/
def Obligations.SpecialsLeaveTheRestUnchanged : Prop :=
  ∀ (i : Instr) (a : Operand) (s t : State),
    i.operands = (none, a) → exec i s = .next t →
    let r := specialAtCompletion (baseCost i) a s
    (∀ q, q ≠ .pc → ¬ specialWrites r i q → (q = .sp → a.movesSp = false) → t.get q = s.get q) ∧
    MemoryFrame s t (specialStores r i)

/-! ### Decoding -/

/-- 30 R90 to R101. -/
def Obligations.DecodeOfEncodeIsTheInstruction : Prop :=
  ∀ i : Instr, i.wf = true → decode (encode i) = .ok i

/-- 30 R101: no two instructions share a word, and what decodes is well formed. -/
def Obligations.EncodeOfDecodeIsTheWord : Prop :=
  ∀ (w : Word) (i : Instr), decode w = .ok i → i.wf = true ∧ encode i = w

/-- 30 R100, R101. -/
def Obligations.IllegalEncodingsAreExactlyTheListed : Prop :=
  ∀ w : Word,
    let o := w.toNat % 0x20
    let b := w.toNat / 0x20 % 0x20
    (o ∈ [0x18, 0x19, 0x1c, 0x1d, 0x1e, 0x1f] → decode w = .error ⟨.basic, BitVec.ofNat 5 o⟩) ∧
    (o = 0 → b ∈ [0x00, 0x02, 0x03, 0x04, 0x05, 0x06, 0x0b, 0x0c, 0x0d, 0x0e, 0x0f] ∨ 0x13 ≤ b →
      decode w = .error ⟨.special, BitVec.ofNat 5 b⟩) ∧
    (o ≠ 0 → o ∉ [0x18, 0x19, 0x1c, 0x1d, 0x1e, 0x1f] → ∃ i, decode w = .ok i) ∧
    (o = 0 → b ∈ [0x01, 0x07, 0x08, 0x09, 0x0a, 0x10, 0x11, 0x12] → ∃ i, decode w = .ok i)

/-- 30 R97, and 10 R24: the length told from the first word counts the next words, and PC passes exactly those. -/
def Obligations.LengthCountsTheWordsPcPasses : Prop :=
  (∀ w : Word, lengthOf w = 1 + extOf (w.toNat / 0x400) +
    (if w.toNat % 0x20 ≠ 0 then extOf (w.toNat / 0x20 % 0x20) else 0)) ∧
  (∀ (w : Word) (i : Instr) (b a : Operand), decode w = .ok i → i.operands = (some b, a) →
    lengthOf w = 1 + a.ext + b.ext) ∧
  (∀ (w : Word) (i : Instr) (a : Operand), decode w = .ok i → i.operands = (none, a) → lengthOf w = 1 + a.ext) ∧
  (∀ (cost : Nat) (b a : Operand) (s : State),
    (basicAtCompletion cost b a s).get .pc = s.get .pc + BitVec.ofNat 16 (a.ext + b.ext) ∧
    (specialAtCompletion cost a s).get .pc = s.get .pc + BitVec.ofNat 16 a.ext)

/-- 30 R107, 95 section 2.2: words the spec writes out. -/
def Obligations.WorkedEncodingsDecode : Prop :=
  decode 0x7C01 = .ok (.set (.reg .a) .nextLiteral) ∧
  decode 0x03C1 = .ok (.set .nextIndirect (.reg .a)) ∧
  decode 0xC413 = .ok (.ifn (.reg .a) (.short 17)) ∧
  decode 0x7C20 = .ok (.jsr .nextLiteral) ∧
  decode 0x6381 = .ok (.set .pc .pop) ∧
  decode 0x8B83 = .ok (.sub .pc (.short 2)) ∧
  decode 0x9B01 = .ok (.set .push (.short 6)) ∧
  decode 0x43D2 = .ok (.ife .nextIndirect (.indexed .a))

/-! ### Steps, errors and cycles -/

/-- 40 R133, R145: at an instruction boundary a step runs the instruction whose word stands at PC, PC moved past the word
and the scratch holding its fields. -/
def Obligations.StepRunsTheDecodedInstruction : Prop :=
  ∀ (s : State) (i : Instr), s.lastError = none → s.atBoundary = true → decode (s.loadValue (s.get .pc)) = .ok i →
    let fetched := s.nextWord.after.latchWord (s.loadValue (s.get .pc))
    step s = exec i fetched ∧ fetched.get .pc = s.get .pc + 1 ∧ (∀ q, q ≠ .pc → fetched.get q = s.get q) ∧
      fetched.backing = s.backing

/-- 30 R100, 40 R133. That the raising cycle is counted is the model's choice (log entry 9). -/
def Obligations.IllegalOpcodeLatchesOpcodeError : Prop :=
  ∀ (s : State) (bad : IllegalOpcode), s.lastError = none → s.atBoundary = true →
    decode (s.loadValue (s.get .pc)) = .error bad →
    ∃ t, step s = .next t ∧ t.lastError = some (.opcode bad.form bad.code) ∧
      (∀ q, t.get q = if q = .pc then s.get .pc + 1 else s.get q) ∧ t.backing = s.backing ∧ t.prot = s.prot ∧
      LoadedOnly s.mmap t.mmap ∧ t.cycleCount = s.cycleCount + 1

/-- 40 R143, without the skip: an instruction takes its base cost and a cycle for each next word. That a cycle which raises
an error is counted too is the model's choice (log entry 9). -/
def Obligations.CyclesAreBaseCostPlusNextWords : Prop :=
  ∀ (i : Instr) (a : Operand) (s t : State), exec i s = .next t →
    (∀ b, i.operands = (some b, a) → isConditional i = false →
      t.cycleCount = s.cycleCount + baseCost i + a.ext + b.ext) ∧
    (i.operands = (none, a) → t.cycleCount = s.cycleCount + baseCost i + a.ext)

/-- 40 R131. That the host's cycle counter, a part of the state, does not count a frozen turn of the driver, and that the
running flag stays once the driver has terminated, are the model's choices (log entries 9 and 19). -/
def Obligations.LatchedErrorFreezesTheBlock : Prop :=
  ∀ (s : State) (e : Error), s.lastError = some e →
    step s = .next s ∧ stepCycle s = .next s ∧ ∀ n, driverRun n s = .next s

/-- 10 R38. -/
def Obligations.ResetLeavesTheSpecValues : Prop :=
  (∀ q, State.reset.get q = 0) ∧ State.reset.scratch.step = .fetch ∧ State.reset.scratch.delayed = false ∧
  State.reset.scratch.synth = false ∧ State.reset.lastError = none ∧
  (∀ ad : Word, WordMem.read State.reset.backing ad.toNat = 0) ∧ State.reset.prot = [] ∧ State.reset.mmap = []

/-- 10 R39, with the ranges of R31 and R36; regions of equal start are ordered by log entry 10, memory cells by entry 1. -/
def Obligations.ResetSatisfiesTheInvariants : Prop := State.reset.Inv

/-- 10 R39, with the ranges of R31 and R36; regions of equal start are ordered by log entry 10, memory cells by entry 1. -/
def Obligations.EveryStepKeepsTheInvariants : Prop :=
  ∀ s t : State, s.Inv → step s = .next t → t.Inv

/-- 40 R132, R144, R145: one instruction-level step is the cycle machine, cycle by cycle with the poll after each, up to
the next instruction boundary. -/
def Obligations.StepIsTheCycleMachineToTheBoundary : Prop :=
  ∀ s : State, s.lastError = none → s.atBoundary = true → step s = runOneByCycles s

/-- 40 R132, R138, 43 R251: with an instruction in flight, a step ends at an instruction boundary or in a latched error. That
one step runs all the cycles left, where R132's transition is one cycle, is the model's choice (log entry 2). -/
def Obligations.StepInFlightEndsAtABoundary : Prop :=
  ∀ s t : State, s.Inv → s.lastError = none → step s = .next t → t.atBoundary = true ∨ t.lastError.isSome = true

/-! ### Memory, protection, devices and the host -/

/-- 20 R52, R53, R54, and what the devices answer: a word stored to the video device, to a buffer or to a slot of the keyboard
reads back (60 R314, R315), and a fresh device reads 0 (60 R314, R316). That a fresh keyboard reads 0 past its ring, and that
a store leaves its accepted keys, are the model's choices (log entries 12 and 18). -/
def Obligations.RouterLoadsAndStores : Prop :=
  ∀ (s : State) (ad v : Word),
    (s.isMapped ad = false → s.loadValue ad = WordMem.read s.backing ad.toNat) ∧
    (∀ g, regionAt s.mmap ad.toNat = some g →
      s.loadValue ad = g.dev.loadValue s.polls (ad.toNat - g.start) ∧
      ∃ t, s.store ad v = .ok t ∧ { t with mmap := s.mmap } = s ∧
        regionAt t.mmap ad.toNat = some { g with dev := g.dev.afterStore (ad.toNat - g.start) v } ∧
        (∀ q, g.contains q = false → regionAt t.mmap q = regionAt s.mmap q) ∧
        (g.dev.keepsWord (ad.toNat - g.start) = true →
          t.loadValue ad = v ∧ ∀ q : Word, q ≠ ad → t.loadValue q = s.loadValue q) ∧
        (∀ ring cursor accepted, g.dev = .keyboard ring cursor accepted →
          ∃ ring', g.dev.afterStore (ad.toNat - g.start) v = .keyboard ring' cursor accepted)) ∧
    (∀ polls offset, Device.freshVideo.loadValue polls offset = 0 ∧ Device.freshKeyboard.loadValue polls offset = 0) ∧
    (s.isMapped ad = false → isProtected s.prot ad.toNat = true → s.store ad v = .raised (.protection ad) s) ∧
    (s.isMapped ad = false → isProtected s.prot ad.toNat = false →
      ∃ t, s.store ad v = .ok t ∧ { t with backing := s.backing } = s ∧
        ∀ q, WordMem.read t.backing q = if q = ad.toNat then v else WordMem.read s.backing q)

/-- 43 R249, R250, with the test of 30 R102. -/
def Obligations.SkipChainEndsAtTheFirstNonConditional : Prop :=
  (∀ w : Word, isIfWord w = true ↔ 0x10 ≤ w.toNat % 0x20 ∧ w.toNat % 0x20 ≤ 0x17) ∧
  ∀ (s : State) (p : Word) (chain : ChainEnd), s.noExternal = true → scanChain 0x10000 p 0 s = some chain →
    1 ≤ chain.skipped ∧ chain.skipped ≤ 0x10000 ∧ chain.after = s ∧
    (∀ j, j + 1 < chain.skipped → isIfWord (s.loadValue ((chainStep s)^[j] p)) = true) ∧
    isIfWord (s.loadValue ((chainStep s)^[chain.skipped - 1] p)) = false ∧
    chain.nextPc = (chainStep s)^[chain.skipped] p

/-- 43 R252: the scan never ends exactly when every instruction it would reach is an IFx. An IFx whose predicate is false then
has no successor, and in every other case it has one. That the scan gives up after 65,536 words, and that having no successor is a fault, is the
model's reading (log entry 6). -/
def Obligations.SkipChainIsStuckExactlyWhenAllConditional : Prop :=
  (∀ (s : State) (p : Word), s.noExternal = true →
    (scanChain 0x10000 p 0 s = none ↔ ∀ j, isIfWord (s.loadValue ((chainStep s)^[j] p)) = true)) ∧
  ∀ (i : Instr) (b a : Operand) (s : State), i.operands = (some b, a) → isConditional i = true →
    let r := basicAtCompletion 2 b a s
    let holds := predicateOf i r.scratch.vb r.scratch.va
    (holds = false → scanChain 0x10000 (r.get .pc) 0 r = none → exec i s = .fault .skipChainNeverEnds) ∧
    (holds = true ∨ scanChain 0x10000 (r.get .pc) 0 r ≠ none → ∃ t, exec i s = .next t)

/-- 20 R59, R60, R61. -/
def Obligations.ProtectAddsAndRemovesTheRange : Prop :=
  ∀ (s : State) (start : Word) (length : Nat) (protect : Bool), protWf s.prot →
    (0x10000 < start.toNat + length → memProtect start length protect s = .error .outOfBounds) ∧
    (start.toNat + length ≤ 0x10000 →
      ∃ t, memProtect start length protect s = .ok t ∧ protWf t.prot ∧ { t with prot := s.prot } = s ∧
        (length = 0 → t = s) ∧
        ∀ ad, isProtected t.prot ad =
          if start.toNat ≤ ad ∧ ad < start.toNat + length then protect else isProtected s.prot ad)

/-- 20 R62. -/
def Obligations.ProtectThenUnprotectRestoresTheList : Prop :=
  ∀ (s t : State) (start : Word) (length : Nat), protWf s.prot → memProtect start length true s = .ok t →
    ∃ u, memProtect start length false t = .ok u ∧
      ((∀ ad, start.toNat ≤ ad → ad < start.toNat + length → isProtected s.prot ad = false) → u = s) ∧
      ((∃ ad, start.toNat ≤ ad ∧ ad < start.toNat + length ∧ isProtected s.prot ad = true) → u ≠ s ∧
        ∀ ad, isProtected u.prot ad =
          (isProtected s.prot ad && !(start.toNat ≤ ad && ad < start.toNat + length)))

/-- 20 R57, R63. -/
def Obligations.MapThenUnmapRestoresTheMap : Prop :=
  ∀ (s : State) (start : Word) (length : Nat) (dev : Device),
    (0x10000 < start.toNat + length → mapRegion start length dev s = .error .outOfBounds) ∧
    (start.toNat + length ≤ 0x10000 →
      (∃ r ∈ s.mmap, ∃ ad, r.contains ad = true ∧ start.toNat ≤ ad ∧ ad < start.toNat + length) →
      mapRegion start length dev s = .error .regionConflict) ∧
    (start.toNat + length ≤ 0x10000 →
      (∀ r ∈ s.mmap, ∀ ad, r.contains ad = true → ¬ (start.toNat ≤ ad ∧ ad < start.toNat + length)) →
      ∃ t, mapRegion start length dev s = .ok t ∧ unmapRegion start length t = .ok s ∧ { t with mmap := s.mmap } = s ∧
        (∀ g, g ∈ t.mmap ↔ g = { start := start.toNat, length := length, dev := dev } ∨ g ∈ s.mmap) ∧
        (s.mmap.Pairwise (fun g later => g.start ≤ later.start) →
          t.mmap.Pairwise (fun g later => g.start ≤ later.start)) ∧
        (∀ ad, start.toNat ≤ ad → ad < start.toNat + length →
          regionAt t.mmap ad = some { start := start.toNat, length := length, dev := dev }))

/-- 60 R317, R318. What the free draw `Config.keyEvent` answers is left open (log entry 8): the poll is stated for whatever it
is. That the first keyboard region is the one polled is the model's reading (log entry 11), and so is when a key down
counts as accepted (log entry 18). -/
def Obligations.PollFillsOnlyAZeroSlotAtTheCursor : Prop :=
  ∀ (s : State) (before later : List MapRegion) (start length : Nat) (ring : Vector Word 16) (cursor : Fin 16)
    (accepted : List Key),
    s.mmap = before ++ ⟨start, length, .keyboard ring cursor accepted⟩ :: later →
    before.all (fun r => !r.dev.isKeyboard) = true →
    s.poll.mmap = before ++ ⟨start, length,
      match Config.keyEvent s.polls with
      | some (.down k) =>
        if ring[cursor] = 0 then
          .keyboard (ring.set cursor (BitVec.ofNat 16 (keyCode k))) (cursor + 1) (accepted.insert k)
        else .keyboard ring cursor accepted
      | some (.up k) =>
        if ring[cursor] = 0 ∧ k ∈ accepted then
          .keyboard (ring.set cursor (BitVec.ofNat 16 (keyCode k ||| 0x100))) (cursor + 1) (accepted.filter (· ≠ k))
        else .keyboard ring cursor accepted
      | none => .keyboard ring cursor accepted⟩ :: later ∧
    s.poll.regs = s.regs ∧ s.poll.backing = s.backing ∧ s.poll.polls = s.polls + 1 ∧
    (∀ n : Fin 4, keyCode (.arrow n) = 128 + n.val) ∧ (∀ code, keyCode (.rune code) = code)

/-- 70 R352. -/
def Obligations.LoaderWritesTheBackingStoreOnly : Prop :=
  ∀ (s : State) (words : List Word) (offset : Nat), s.running = false →
    (0x10000 < offset + words.length → loadProgram words offset s = .error .outOfBounds) ∧
    (offset + words.length ≤ 0x10000 →
      ∃ t, loadProgram words offset s = .ok t ∧ { t with backing := s.backing } = s ∧
        (∀ k (h : k < words.length), WordMem.read t.backing (offset + k) = words[k]) ∧
        (∀ ad, ad < offset ∨ offset + words.length ≤ ad → WordMem.read t.backing ad = WordMem.read s.backing ad))

/-- 42 R217. -/
def Obligations.ShiftsHaveTheClosedForms : Prop :=
  ∀ b a : Word,
    let n := a.toNat
    let sign : Word := if b.getLsbD 15 then 0xFFFF else 0
    (n = 0 → shrResult b a = b ∧ exShr b a = 0 ∧ shlResult b a = b ∧ exShl b a = 0 ∧ asrResult b a = b ∧
      exAsr b a = 0) ∧
    (1 ≤ n → n ≤ 15 →
      shrResult b a = b >>> n ∧ exShr b a = b <<< (16 - n) ∧
      shlResult b a = b <<< n ∧ exShl b a = b >>> (16 - n) ∧
      asrResult b a = b.sshiftRight n ∧ exAsr b a = b <<< (16 - n)) ∧
    (16 ≤ n → n ≤ 31 →
      shrResult b a = 0 ∧ exShr b a = b >>> (n - 16) ∧
      shlResult b a = 0 ∧ exShl b a = b <<< (n - 16) ∧
      asrResult b a = sign ∧ exAsr b a = b.sshiftRight (n - 16)) ∧
    (32 ≤ n →
      shrResult b a = 0 ∧ exShr b a = 0 ∧ shlResult b a = 0 ∧ exShl b a = 0 ∧
      asrResult b a = sign ∧ exAsr b a = sign)
end

