-- ==== Sys2Proof/Laws/Decode.lean ====
section
/-! SUPPORT. The fields of a packed word, and the operand classes there and back (spec 30 R90, R92). -/

namespace Sys2Proof

/-- The bits of a packed word (30 R90). -/
theorem packWord_getLsbD (fa : BitVec 6) (fb fo : BitVec 5) (i : Nat) :
    (packWord fa fb fo).getLsbD i =
      if i < 5 then fo.getLsbD i else if i < 10 then fb.getLsbD (i - 5) else fa.getLsbD (i - 10) := by
  have h : (packWord fa fb fo).getLsbD i = ((fa ++ fb) ++ fo : BitVec (6 + 5 + 5)).getLsbD i := rfl
  rw [h, BitVec.getLsbD_append, BitVec.getLsbD_append]
  by_cases h1 : i < 5
  · simp [h1]
  · by_cases h2 : i < 10
    · have : i - 5 < 5 := by omega
      simp [h1, h2, this]
    · have h3 : ¬ i - 5 < 5 := by omega
      have h4 : i - 5 - 5 = i - 10 := by omega
      simp [h1, h2, h3, h4]

@[simp] theorem fieldA_packWord (fa : BitVec 6) (fb fo : BitVec 5) : fieldA (packWord fa fb fo) = fa := by
  apply BitVec.eq_of_getLsbD_eq
  intro i hi
  have h1 : ¬ 10 + i < 5 := by omega
  simp [fieldA, packWord_getLsbD, hi, h1]

@[simp] theorem fieldB_packWord (fa : BitVec 6) (fb fo : BitVec 5) : fieldB (packWord fa fb fo) = fb := by
  apply BitVec.eq_of_getLsbD_eq
  intro i hi
  have h1 : 5 + i < 10 := by omega
  simp [fieldB, packWord_getLsbD, hi, h1]

@[simp] theorem fieldO_packWord (fa : BitVec 6) (fb fo : BitVec 5) : fieldO (packWord fa fb fo) = fo := by
  apply BitVec.eq_of_getLsbD_eq
  intro i hi
  simp [fieldO, packWord_getLsbD, hi]

/-- A word is its three fields (30 R90). -/
theorem packWord_fields (w : Word) : packWord (fieldA w) (fieldB w) (fieldO w) = w := by
  apply BitVec.eq_of_getLsbD_eq
  intro i hi
  simp only [packWord_getLsbD, fieldA, fieldB, fieldO, BitVec.getLsbD_extractLsb']
  by_cases h1 : i < 5
  · simp [h1]
  · by_cases h2 : i < 10
    · have h3 : 5 + (i - 5) = i := by omega
      have h4 : i - 5 < 5 := by omega
      simp [h1, h2, h3, h4]
    · have h3 : 10 + (i - 10) = i := by omega
      have h4 : i - 10 < 6 := by omega
      simp [h1, h2, h3, h4]

/-- A short literal decodes from its class (30 R93). -/
theorem operandA_classA_short : ∀ n : BitVec 5, operandA (Operand.short n).classA = .short n := by decide

/-- An operand of position a decodes from its class (30 R92). -/
theorem operandA_classA (a : Operand) (h : a.okA = true) : operandA a.classA = a := by
  cases a with
  | reg r => cases r <;> decide
  | indirect r => cases r <;> decide
  | indexed r => cases r <;> decide
  | short n => exact operandA_classA_short n
  | push => simp [Operand.okA] at h
  | _ => decide

/-- An operand of position b decodes from its class (30 R92). -/
theorem operandB_low (b : Operand) (h : b.okB = true) : operandB b.low = b := by
  cases b with
  | reg r => cases r <;> decide
  | indirect r => cases r <;> decide
  | indexed r => cases r <;> decide
  | short n => simp [Operand.okB] at h
  | pop => simp [Operand.okB] at h
  | _ => decide

/-- A class of position a encodes its operand, and the operand is legal there (30 R92, R101). -/
theorem classA_operandA : ∀ c : BitVec 6, (operandA c).classA = c ∧ (operandA c).okA = true := by decide

/-- A class of position b encodes its operand, and the operand is legal there (30 R92, R101). -/
theorem low_operandB : ∀ c : BitVec 5, (operandB c).low = c ∧ (operandB c).okB = true := by decide

/-- What decides the instruction of a packed basic word. -/
theorem decode_encodeBasic (o : BitVec 5) (ho : o ≠ 0#5) (b a : Operand) (hb : b.okB = true) (ha : a.okA = true) :
    decode (encodeBasic o b a) = decodeBasic o b a := by
  simp [decode, decodeFields, formOf, opOf, encodeBasic, ho, operandA_classA a ha, operandB_low b hb]

/-- What decides the instruction of a packed special word. -/
theorem decode_encodeSpecial (code : BitVec 5) (a : Operand) (ha : a.okA = true) :
    decode (encodeSpecial code a) = decodeSpecial code a := by
  simp [decode, decodeFields, formOf, opOf, encodeSpecial, operandA_classA a ha]

end Sys2Proof
end

