-- ==== Sys2Proof/Laws/State.lean ====
section
/-! SUPPORT. What each named update of the state does to each field: one lemma per field per update, each true by rfl, so
that no later proof unfolds a record update. -/

namespace Sys2Proof.Machine

@[simp] theorem State.setReg_regs (s : State) (r : Reg) (v : Word) : (s.setReg r v).regs = s.regs.set r v := rfl
@[simp] theorem State.setReg_scratch (s : State) (r : Reg) (v : Word) : (s.setReg r v).scratch = s.scratch := rfl
@[simp] theorem State.setReg_lastError (s : State) (r : Reg) (v : Word) :
    (s.setReg r v).lastError = s.lastError := rfl
@[simp] theorem State.setReg_backing (s : State) (r : Reg) (v : Word) : (s.setReg r v).backing = s.backing := rfl
@[simp] theorem State.setReg_prot (s : State) (r : Reg) (v : Word) : (s.setReg r v).prot = s.prot := rfl
@[simp] theorem State.setReg_mmap (s : State) (r : Reg) (v : Word) : (s.setReg r v).mmap = s.mmap := rfl
@[simp] theorem State.setReg_cycleCount (s : State) (r : Reg) (v : Word) :
    (s.setReg r v).cycleCount = s.cycleCount := rfl
@[simp] theorem State.setReg_running (s : State) (r : Reg) (v : Word) : (s.setReg r v).running = s.running := rfl
@[simp] theorem State.setReg_polls (s : State) (r : Reg) (v : Word) : (s.setReg r v).polls = s.polls := rfl

@[simp] theorem State.setPhase_regs (s : State) (p : Phase) : (s.setPhase p).regs = s.regs := rfl
@[simp] theorem State.setPhase_step (s : State) (p : Phase) : (s.setPhase p).scratch.step = p := rfl
@[simp] theorem State.setPhase_delayed (s : State) (p : Phase) : (s.setPhase p).scratch.delayed = s.scratch.delayed := rfl
@[simp] theorem State.setPhase_form (s : State) (p : Phase) : (s.setPhase p).scratch.form = s.scratch.form := rfl
@[simp] theorem State.setPhase_op (s : State) (p : Phase) : (s.setPhase p).scratch.op = s.scratch.op := rfl
@[simp] theorem State.setPhase_fa (s : State) (p : Phase) : (s.setPhase p).scratch.fa = s.scratch.fa := rfl
@[simp] theorem State.setPhase_fb (s : State) (p : Phase) : (s.setPhase p).scratch.fb = s.scratch.fb := rfl
@[simp] theorem State.setPhase_va (s : State) (p : Phase) : (s.setPhase p).scratch.va = s.scratch.va := rfl
@[simp] theorem State.setPhase_addrA (s : State) (p : Phase) : (s.setPhase p).scratch.addrA = s.scratch.addrA := rfl
@[simp] theorem State.setPhase_vb (s : State) (p : Phase) : (s.setPhase p).scratch.vb = s.scratch.vb := rfl
@[simp] theorem State.setPhase_addrB (s : State) (p : Phase) : (s.setPhase p).scratch.addrB = s.scratch.addrB := rfl
@[simp] theorem State.setPhase_remaining (s : State) (p : Phase) : (s.setPhase p).scratch.remaining = s.scratch.remaining := rfl
@[simp] theorem State.setPhase_synth (s : State) (p : Phase) : (s.setPhase p).scratch.synth = s.scratch.synth := rfl
@[simp] theorem State.setPhase_nextPc (s : State) (p : Phase) : (s.setPhase p).scratch.nextPc = s.scratch.nextPc := rfl
@[simp] theorem State.setPhase_lastError (s : State) (p : Phase) : (s.setPhase p).lastError = s.lastError := rfl
@[simp] theorem State.setPhase_backing (s : State) (p : Phase) : (s.setPhase p).backing = s.backing := rfl
@[simp] theorem State.setPhase_prot (s : State) (p : Phase) : (s.setPhase p).prot = s.prot := rfl
@[simp] theorem State.setPhase_mmap (s : State) (p : Phase) : (s.setPhase p).mmap = s.mmap := rfl
@[simp] theorem State.setPhase_cycleCount (s : State) (p : Phase) : (s.setPhase p).cycleCount = s.cycleCount := rfl
@[simp] theorem State.setPhase_running (s : State) (p : Phase) : (s.setPhase p).running = s.running := rfl
@[simp] theorem State.setPhase_polls (s : State) (p : Phase) : (s.setPhase p).polls = s.polls := rfl
@[simp] theorem State.setPhase_get (s : State) (p : Phase) (q : Reg) : (s.setPhase p).get q = s.get q := rfl

@[simp] theorem State.setDelayed_regs (s : State) (d : Bool) : (s.setDelayed d).regs = s.regs := rfl
@[simp] theorem State.setDelayed_step (s : State) (d : Bool) : (s.setDelayed d).scratch.step = s.scratch.step := rfl
@[simp] theorem State.setDelayed_delayed (s : State) (d : Bool) : (s.setDelayed d).scratch.delayed = d := rfl
@[simp] theorem State.setDelayed_form (s : State) (d : Bool) : (s.setDelayed d).scratch.form = s.scratch.form := rfl
@[simp] theorem State.setDelayed_op (s : State) (d : Bool) : (s.setDelayed d).scratch.op = s.scratch.op := rfl
@[simp] theorem State.setDelayed_fa (s : State) (d : Bool) : (s.setDelayed d).scratch.fa = s.scratch.fa := rfl
@[simp] theorem State.setDelayed_fb (s : State) (d : Bool) : (s.setDelayed d).scratch.fb = s.scratch.fb := rfl
@[simp] theorem State.setDelayed_va (s : State) (d : Bool) : (s.setDelayed d).scratch.va = s.scratch.va := rfl
@[simp] theorem State.setDelayed_addrA (s : State) (d : Bool) : (s.setDelayed d).scratch.addrA = s.scratch.addrA := rfl
@[simp] theorem State.setDelayed_vb (s : State) (d : Bool) : (s.setDelayed d).scratch.vb = s.scratch.vb := rfl
@[simp] theorem State.setDelayed_addrB (s : State) (d : Bool) : (s.setDelayed d).scratch.addrB = s.scratch.addrB := rfl
@[simp] theorem State.setDelayed_remaining (s : State) (d : Bool) : (s.setDelayed d).scratch.remaining = s.scratch.remaining := rfl
@[simp] theorem State.setDelayed_synth (s : State) (d : Bool) : (s.setDelayed d).scratch.synth = s.scratch.synth := rfl
@[simp] theorem State.setDelayed_nextPc (s : State) (d : Bool) : (s.setDelayed d).scratch.nextPc = s.scratch.nextPc := rfl
@[simp] theorem State.setDelayed_lastError (s : State) (d : Bool) : (s.setDelayed d).lastError = s.lastError := rfl
@[simp] theorem State.setDelayed_backing (s : State) (d : Bool) : (s.setDelayed d).backing = s.backing := rfl
@[simp] theorem State.setDelayed_prot (s : State) (d : Bool) : (s.setDelayed d).prot = s.prot := rfl
@[simp] theorem State.setDelayed_mmap (s : State) (d : Bool) : (s.setDelayed d).mmap = s.mmap := rfl
@[simp] theorem State.setDelayed_cycleCount (s : State) (d : Bool) : (s.setDelayed d).cycleCount = s.cycleCount := rfl
@[simp] theorem State.setDelayed_running (s : State) (d : Bool) : (s.setDelayed d).running = s.running := rfl
@[simp] theorem State.setDelayed_polls (s : State) (d : Bool) : (s.setDelayed d).polls = s.polls := rfl
@[simp] theorem State.setDelayed_get (s : State) (d : Bool) (q : Reg) : (s.setDelayed d).get q = s.get q := rfl

@[simp] theorem State.setRemaining_regs (s : State) (n : Nat) : (s.setRemaining n).regs = s.regs := rfl
@[simp] theorem State.setRemaining_step (s : State) (n : Nat) : (s.setRemaining n).scratch.step = s.scratch.step := rfl
@[simp] theorem State.setRemaining_delayed (s : State) (n : Nat) : (s.setRemaining n).scratch.delayed = s.scratch.delayed := rfl
@[simp] theorem State.setRemaining_form (s : State) (n : Nat) : (s.setRemaining n).scratch.form = s.scratch.form := rfl
@[simp] theorem State.setRemaining_op (s : State) (n : Nat) : (s.setRemaining n).scratch.op = s.scratch.op := rfl
@[simp] theorem State.setRemaining_fa (s : State) (n : Nat) : (s.setRemaining n).scratch.fa = s.scratch.fa := rfl
@[simp] theorem State.setRemaining_fb (s : State) (n : Nat) : (s.setRemaining n).scratch.fb = s.scratch.fb := rfl
@[simp] theorem State.setRemaining_va (s : State) (n : Nat) : (s.setRemaining n).scratch.va = s.scratch.va := rfl
@[simp] theorem State.setRemaining_addrA (s : State) (n : Nat) : (s.setRemaining n).scratch.addrA = s.scratch.addrA := rfl
@[simp] theorem State.setRemaining_vb (s : State) (n : Nat) : (s.setRemaining n).scratch.vb = s.scratch.vb := rfl
@[simp] theorem State.setRemaining_addrB (s : State) (n : Nat) : (s.setRemaining n).scratch.addrB = s.scratch.addrB := rfl
@[simp] theorem State.setRemaining_remaining (s : State) (n : Nat) : (s.setRemaining n).scratch.remaining = n := rfl
@[simp] theorem State.setRemaining_synth (s : State) (n : Nat) : (s.setRemaining n).scratch.synth = s.scratch.synth := rfl
@[simp] theorem State.setRemaining_nextPc (s : State) (n : Nat) : (s.setRemaining n).scratch.nextPc = s.scratch.nextPc := rfl
@[simp] theorem State.setRemaining_lastError (s : State) (n : Nat) : (s.setRemaining n).lastError = s.lastError := rfl
@[simp] theorem State.setRemaining_backing (s : State) (n : Nat) : (s.setRemaining n).backing = s.backing := rfl
@[simp] theorem State.setRemaining_prot (s : State) (n : Nat) : (s.setRemaining n).prot = s.prot := rfl
@[simp] theorem State.setRemaining_mmap (s : State) (n : Nat) : (s.setRemaining n).mmap = s.mmap := rfl
@[simp] theorem State.setRemaining_cycleCount (s : State) (n : Nat) :
    (s.setRemaining n).cycleCount = s.cycleCount := rfl
@[simp] theorem State.setRemaining_running (s : State) (n : Nat) : (s.setRemaining n).running = s.running := rfl
@[simp] theorem State.setRemaining_polls (s : State) (n : Nat) : (s.setRemaining n).polls = s.polls := rfl
@[simp] theorem State.setRemaining_get (s : State) (n : Nat) (q : Reg) : (s.setRemaining n).get q = s.get q := rfl

@[simp] theorem State.setOperandA_regs (s : State) (v : Word) (t : Address) : (s.setOperandA v t).regs = s.regs := rfl
@[simp] theorem State.setOperandA_step (s : State) (v : Word) (t : Address) : (s.setOperandA v t).scratch.step = s.scratch.step := rfl
@[simp] theorem State.setOperandA_delayed (s : State) (v : Word) (t : Address) : (s.setOperandA v t).scratch.delayed = s.scratch.delayed := rfl
@[simp] theorem State.setOperandA_form (s : State) (v : Word) (t : Address) : (s.setOperandA v t).scratch.form = s.scratch.form := rfl
@[simp] theorem State.setOperandA_op (s : State) (v : Word) (t : Address) : (s.setOperandA v t).scratch.op = s.scratch.op := rfl
@[simp] theorem State.setOperandA_fa (s : State) (v : Word) (t : Address) : (s.setOperandA v t).scratch.fa = s.scratch.fa := rfl
@[simp] theorem State.setOperandA_fb (s : State) (v : Word) (t : Address) : (s.setOperandA v t).scratch.fb = s.scratch.fb := rfl
@[simp] theorem State.setOperandA_va (s : State) (v : Word) (t : Address) : (s.setOperandA v t).scratch.va = v := rfl
@[simp] theorem State.setOperandA_addrA (s : State) (v : Word) (t : Address) : (s.setOperandA v t).scratch.addrA = t := rfl
@[simp] theorem State.setOperandA_vb (s : State) (v : Word) (t : Address) : (s.setOperandA v t).scratch.vb = s.scratch.vb := rfl
@[simp] theorem State.setOperandA_addrB (s : State) (v : Word) (t : Address) : (s.setOperandA v t).scratch.addrB = s.scratch.addrB := rfl
@[simp] theorem State.setOperandA_remaining (s : State) (v : Word) (t : Address) : (s.setOperandA v t).scratch.remaining = s.scratch.remaining := rfl
@[simp] theorem State.setOperandA_synth (s : State) (v : Word) (t : Address) : (s.setOperandA v t).scratch.synth = s.scratch.synth := rfl
@[simp] theorem State.setOperandA_nextPc (s : State) (v : Word) (t : Address) : (s.setOperandA v t).scratch.nextPc = s.scratch.nextPc := rfl
@[simp] theorem State.setOperandA_lastError (s : State) (v : Word) (t : Address) :
    (s.setOperandA v t).lastError = s.lastError := rfl
@[simp] theorem State.setOperandA_backing (s : State) (v : Word) (t : Address) :
    (s.setOperandA v t).backing = s.backing := rfl
@[simp] theorem State.setOperandA_prot (s : State) (v : Word) (t : Address) : (s.setOperandA v t).prot = s.prot := rfl
@[simp] theorem State.setOperandA_mmap (s : State) (v : Word) (t : Address) : (s.setOperandA v t).mmap = s.mmap := rfl
@[simp] theorem State.setOperandA_cycleCount (s : State) (v : Word) (t : Address) :
    (s.setOperandA v t).cycleCount = s.cycleCount := rfl
@[simp] theorem State.setOperandA_running (s : State) (v : Word) (t : Address) :
    (s.setOperandA v t).running = s.running := rfl
@[simp] theorem State.setOperandA_polls (s : State) (v : Word) (t : Address) :
    (s.setOperandA v t).polls = s.polls := rfl
@[simp] theorem State.setOperandA_get (s : State) (v : Word) (t : Address) (q : Reg) : (s.setOperandA v t).get q = s.get q := rfl

@[simp] theorem State.setOperandB_regs (s : State) (v : Word) (t : Address) : (s.setOperandB v t).regs = s.regs := rfl
@[simp] theorem State.setOperandB_step (s : State) (v : Word) (t : Address) : (s.setOperandB v t).scratch.step = s.scratch.step := rfl
@[simp] theorem State.setOperandB_delayed (s : State) (v : Word) (t : Address) : (s.setOperandB v t).scratch.delayed = s.scratch.delayed := rfl
@[simp] theorem State.setOperandB_form (s : State) (v : Word) (t : Address) : (s.setOperandB v t).scratch.form = s.scratch.form := rfl
@[simp] theorem State.setOperandB_op (s : State) (v : Word) (t : Address) : (s.setOperandB v t).scratch.op = s.scratch.op := rfl
@[simp] theorem State.setOperandB_fa (s : State) (v : Word) (t : Address) : (s.setOperandB v t).scratch.fa = s.scratch.fa := rfl
@[simp] theorem State.setOperandB_fb (s : State) (v : Word) (t : Address) : (s.setOperandB v t).scratch.fb = s.scratch.fb := rfl
@[simp] theorem State.setOperandB_va (s : State) (v : Word) (t : Address) : (s.setOperandB v t).scratch.va = s.scratch.va := rfl
@[simp] theorem State.setOperandB_addrA (s : State) (v : Word) (t : Address) : (s.setOperandB v t).scratch.addrA = s.scratch.addrA := rfl
@[simp] theorem State.setOperandB_vb (s : State) (v : Word) (t : Address) : (s.setOperandB v t).scratch.vb = v := rfl
@[simp] theorem State.setOperandB_addrB (s : State) (v : Word) (t : Address) : (s.setOperandB v t).scratch.addrB = t := rfl
@[simp] theorem State.setOperandB_remaining (s : State) (v : Word) (t : Address) : (s.setOperandB v t).scratch.remaining = s.scratch.remaining := rfl
@[simp] theorem State.setOperandB_synth (s : State) (v : Word) (t : Address) : (s.setOperandB v t).scratch.synth = s.scratch.synth := rfl
@[simp] theorem State.setOperandB_nextPc (s : State) (v : Word) (t : Address) : (s.setOperandB v t).scratch.nextPc = s.scratch.nextPc := rfl
@[simp] theorem State.setOperandB_lastError (s : State) (v : Word) (t : Address) :
    (s.setOperandB v t).lastError = s.lastError := rfl
@[simp] theorem State.setOperandB_backing (s : State) (v : Word) (t : Address) :
    (s.setOperandB v t).backing = s.backing := rfl
@[simp] theorem State.setOperandB_prot (s : State) (v : Word) (t : Address) : (s.setOperandB v t).prot = s.prot := rfl
@[simp] theorem State.setOperandB_mmap (s : State) (v : Word) (t : Address) : (s.setOperandB v t).mmap = s.mmap := rfl
@[simp] theorem State.setOperandB_cycleCount (s : State) (v : Word) (t : Address) :
    (s.setOperandB v t).cycleCount = s.cycleCount := rfl
@[simp] theorem State.setOperandB_running (s : State) (v : Word) (t : Address) :
    (s.setOperandB v t).running = s.running := rfl
@[simp] theorem State.setOperandB_polls (s : State) (v : Word) (t : Address) :
    (s.setOperandB v t).polls = s.polls := rfl
@[simp] theorem State.setOperandB_get (s : State) (v : Word) (t : Address) (q : Reg) : (s.setOperandB v t).get q = s.get q := rfl

@[simp] theorem State.latchWord_regs (s : State) (w : Word) : (s.latchWord w).regs = s.regs := rfl
@[simp] theorem State.latchWord_step (s : State) (w : Word) : (s.latchWord w).scratch.step = s.scratch.step := rfl
@[simp] theorem State.latchWord_delayed (s : State) (w : Word) : (s.latchWord w).scratch.delayed = s.scratch.delayed := rfl
@[simp] theorem State.latchWord_form (s : State) (w : Word) : (s.latchWord w).scratch.form = formOf w := rfl
@[simp] theorem State.latchWord_op (s : State) (w : Word) : (s.latchWord w).scratch.op = opOf w := rfl
@[simp] theorem State.latchWord_fa (s : State) (w : Word) : (s.latchWord w).scratch.fa = fieldA w := rfl
@[simp] theorem State.latchWord_fb (s : State) (w : Word) : (s.latchWord w).scratch.fb = fieldB w := rfl
@[simp] theorem State.latchWord_va (s : State) (w : Word) : (s.latchWord w).scratch.va = s.scratch.va := rfl
@[simp] theorem State.latchWord_addrA (s : State) (w : Word) : (s.latchWord w).scratch.addrA = s.scratch.addrA := rfl
@[simp] theorem State.latchWord_vb (s : State) (w : Word) : (s.latchWord w).scratch.vb = s.scratch.vb := rfl
@[simp] theorem State.latchWord_addrB (s : State) (w : Word) : (s.latchWord w).scratch.addrB = s.scratch.addrB := rfl
@[simp] theorem State.latchWord_remaining (s : State) (w : Word) : (s.latchWord w).scratch.remaining = s.scratch.remaining := rfl
@[simp] theorem State.latchWord_synth (s : State) (w : Word) : (s.latchWord w).scratch.synth = s.scratch.synth := rfl
@[simp] theorem State.latchWord_nextPc (s : State) (w : Word) : (s.latchWord w).scratch.nextPc = s.scratch.nextPc := rfl
@[simp] theorem State.latchWord_lastError (s : State) (w : Word) : (s.latchWord w).lastError = s.lastError := rfl
@[simp] theorem State.latchWord_backing (s : State) (w : Word) : (s.latchWord w).backing = s.backing := rfl
@[simp] theorem State.latchWord_prot (s : State) (w : Word) : (s.latchWord w).prot = s.prot := rfl
@[simp] theorem State.latchWord_mmap (s : State) (w : Word) : (s.latchWord w).mmap = s.mmap := rfl
@[simp] theorem State.latchWord_cycleCount (s : State) (w : Word) : (s.latchWord w).cycleCount = s.cycleCount := rfl
@[simp] theorem State.latchWord_running (s : State) (w : Word) : (s.latchWord w).running = s.running := rfl
@[simp] theorem State.latchWord_polls (s : State) (w : Word) : (s.latchWord w).polls = s.polls := rfl
@[simp] theorem State.latchWord_get (s : State) (w : Word) (q : Reg) : (s.latchWord w).get q = s.get q := rfl

@[simp] theorem State.startInstr_regs (s : State) (c : Nat) : (s.startInstr c).regs = s.regs := rfl
@[simp] theorem State.startInstr_step (s : State) (c : Nat) : (s.startInstr c).scratch.step = .decodeA := rfl
@[simp] theorem State.startInstr_delayed (s : State) (c : Nat) : (s.startInstr c).scratch.delayed = false := rfl
@[simp] theorem State.startInstr_form (s : State) (c : Nat) : (s.startInstr c).scratch.form = s.scratch.form := rfl
@[simp] theorem State.startInstr_op (s : State) (c : Nat) : (s.startInstr c).scratch.op = s.scratch.op := rfl
@[simp] theorem State.startInstr_fa (s : State) (c : Nat) : (s.startInstr c).scratch.fa = s.scratch.fa := rfl
@[simp] theorem State.startInstr_fb (s : State) (c : Nat) : (s.startInstr c).scratch.fb = s.scratch.fb := rfl
@[simp] theorem State.startInstr_va (s : State) (c : Nat) : (s.startInstr c).scratch.va = s.scratch.va := rfl
@[simp] theorem State.startInstr_addrA (s : State) (c : Nat) : (s.startInstr c).scratch.addrA = s.scratch.addrA := rfl
@[simp] theorem State.startInstr_vb (s : State) (c : Nat) : (s.startInstr c).scratch.vb = s.scratch.vb := rfl
@[simp] theorem State.startInstr_addrB (s : State) (c : Nat) : (s.startInstr c).scratch.addrB = s.scratch.addrB := rfl
@[simp] theorem State.startInstr_remaining (s : State) (c : Nat) : (s.startInstr c).scratch.remaining = c := rfl
@[simp] theorem State.startInstr_synth (s : State) (c : Nat) : (s.startInstr c).scratch.synth = false := rfl
@[simp] theorem State.startInstr_nextPc (s : State) (c : Nat) : (s.startInstr c).scratch.nextPc = s.scratch.nextPc := rfl
@[simp] theorem State.startInstr_lastError (s : State) (c : Nat) : (s.startInstr c).lastError = s.lastError := rfl
@[simp] theorem State.startInstr_backing (s : State) (c : Nat) : (s.startInstr c).backing = s.backing := rfl
@[simp] theorem State.startInstr_prot (s : State) (c : Nat) : (s.startInstr c).prot = s.prot := rfl
@[simp] theorem State.startInstr_mmap (s : State) (c : Nat) : (s.startInstr c).mmap = s.mmap := rfl
@[simp] theorem State.startInstr_cycleCount (s : State) (c : Nat) : (s.startInstr c).cycleCount = s.cycleCount := rfl
@[simp] theorem State.startInstr_running (s : State) (c : Nat) : (s.startInstr c).running = s.running := rfl
@[simp] theorem State.startInstr_polls (s : State) (c : Nat) : (s.startInstr c).polls = s.polls := rfl
@[simp] theorem State.startInstr_get (s : State) (c : Nat) (q : Reg) : (s.startInstr c).get q = s.get q := rfl

@[simp] theorem State.startSkip_regs (s : State) (p : Word) (k : Nat) : (s.startSkip p k).regs = s.regs := rfl
@[simp] theorem State.startSkip_step (s : State) (p : Word) (k : Nat) : (s.startSkip p k).scratch.step = .execute := rfl
@[simp] theorem State.startSkip_delayed (s : State) (p : Word) (k : Nat) : (s.startSkip p k).scratch.delayed = s.scratch.delayed := rfl
@[simp] theorem State.startSkip_form (s : State) (p : Word) (k : Nat) : (s.startSkip p k).scratch.form = s.scratch.form := rfl
@[simp] theorem State.startSkip_op (s : State) (p : Word) (k : Nat) : (s.startSkip p k).scratch.op = s.scratch.op := rfl
@[simp] theorem State.startSkip_fa (s : State) (p : Word) (k : Nat) : (s.startSkip p k).scratch.fa = s.scratch.fa := rfl
@[simp] theorem State.startSkip_fb (s : State) (p : Word) (k : Nat) : (s.startSkip p k).scratch.fb = s.scratch.fb := rfl
@[simp] theorem State.startSkip_va (s : State) (p : Word) (k : Nat) : (s.startSkip p k).scratch.va = s.scratch.va := rfl
@[simp] theorem State.startSkip_addrA (s : State) (p : Word) (k : Nat) : (s.startSkip p k).scratch.addrA = s.scratch.addrA := rfl
@[simp] theorem State.startSkip_vb (s : State) (p : Word) (k : Nat) : (s.startSkip p k).scratch.vb = s.scratch.vb := rfl
@[simp] theorem State.startSkip_addrB (s : State) (p : Word) (k : Nat) : (s.startSkip p k).scratch.addrB = s.scratch.addrB := rfl
@[simp] theorem State.startSkip_remaining (s : State) (p : Word) (k : Nat) : (s.startSkip p k).scratch.remaining = k := rfl
@[simp] theorem State.startSkip_synth (s : State) (p : Word) (k : Nat) : (s.startSkip p k).scratch.synth = true := rfl
@[simp] theorem State.startSkip_nextPc (s : State) (p : Word) (k : Nat) : (s.startSkip p k).scratch.nextPc = p := rfl
@[simp] theorem State.startSkip_lastError (s : State) (p : Word) (k : Nat) :
    (s.startSkip p k).lastError = s.lastError := rfl
@[simp] theorem State.startSkip_backing (s : State) (p : Word) (k : Nat) :
    (s.startSkip p k).backing = s.backing := rfl
@[simp] theorem State.startSkip_prot (s : State) (p : Word) (k : Nat) : (s.startSkip p k).prot = s.prot := rfl
@[simp] theorem State.startSkip_mmap (s : State) (p : Word) (k : Nat) : (s.startSkip p k).mmap = s.mmap := rfl
@[simp] theorem State.startSkip_cycleCount (s : State) (p : Word) (k : Nat) :
    (s.startSkip p k).cycleCount = s.cycleCount := rfl
@[simp] theorem State.startSkip_running (s : State) (p : Word) (k : Nat) :
    (s.startSkip p k).running = s.running := rfl
@[simp] theorem State.startSkip_polls (s : State) (p : Word) (k : Nat) : (s.startSkip p k).polls = s.polls := rfl
@[simp] theorem State.startSkip_get (s : State) (p : Word) (k : Nat) (q : Reg) : (s.startSkip p k).get q = s.get q := rfl

@[simp] theorem State.finishSkip_regs (s : State) : (s.finishSkip).regs = s.regs.set .pc s.scratch.nextPc := rfl
@[simp] theorem State.finishSkip_step (s : State) : (s.finishSkip).scratch.step = .fetch := rfl
@[simp] theorem State.finishSkip_delayed (s : State) : (s.finishSkip).scratch.delayed = s.scratch.delayed := rfl
@[simp] theorem State.finishSkip_form (s : State) : (s.finishSkip).scratch.form = s.scratch.form := rfl
@[simp] theorem State.finishSkip_op (s : State) : (s.finishSkip).scratch.op = s.scratch.op := rfl
@[simp] theorem State.finishSkip_fa (s : State) : (s.finishSkip).scratch.fa = s.scratch.fa := rfl
@[simp] theorem State.finishSkip_fb (s : State) : (s.finishSkip).scratch.fb = s.scratch.fb := rfl
@[simp] theorem State.finishSkip_va (s : State) : (s.finishSkip).scratch.va = s.scratch.va := rfl
@[simp] theorem State.finishSkip_addrA (s : State) : (s.finishSkip).scratch.addrA = s.scratch.addrA := rfl
@[simp] theorem State.finishSkip_vb (s : State) : (s.finishSkip).scratch.vb = s.scratch.vb := rfl
@[simp] theorem State.finishSkip_addrB (s : State) : (s.finishSkip).scratch.addrB = s.scratch.addrB := rfl
@[simp] theorem State.finishSkip_remaining (s : State) : (s.finishSkip).scratch.remaining = s.scratch.remaining := rfl
@[simp] theorem State.finishSkip_synth (s : State) : (s.finishSkip).scratch.synth = false := rfl
@[simp] theorem State.finishSkip_nextPc (s : State) : (s.finishSkip).scratch.nextPc = s.scratch.nextPc := rfl
@[simp] theorem State.finishSkip_lastError (s : State) : (s.finishSkip).lastError = s.lastError := rfl
@[simp] theorem State.finishSkip_backing (s : State) : (s.finishSkip).backing = s.backing := rfl
@[simp] theorem State.finishSkip_prot (s : State) : (s.finishSkip).prot = s.prot := rfl
@[simp] theorem State.finishSkip_mmap (s : State) : (s.finishSkip).mmap = s.mmap := rfl
@[simp] theorem State.finishSkip_cycleCount (s : State) : (s.finishSkip).cycleCount = s.cycleCount := rfl
@[simp] theorem State.finishSkip_running (s : State) : (s.finishSkip).running = s.running := rfl
@[simp] theorem State.finishSkip_polls (s : State) : (s.finishSkip).polls = s.polls := rfl

@[simp] theorem State.raise_regs (s : State) (e : Error) : (s.raise e).regs = s.regs := rfl
@[simp] theorem State.raise_scratch (s : State) (e : Error) : (s.raise e).scratch = s.scratch := rfl
@[simp] theorem State.raise_lastError (s : State) (e : Error) : (s.raise e).lastError = some e := rfl
@[simp] theorem State.raise_backing (s : State) (e : Error) : (s.raise e).backing = s.backing := rfl
@[simp] theorem State.raise_prot (s : State) (e : Error) : (s.raise e).prot = s.prot := rfl
@[simp] theorem State.raise_mmap (s : State) (e : Error) : (s.raise e).mmap = s.mmap := rfl
@[simp] theorem State.raise_cycleCount (s : State) (e : Error) : (s.raise e).cycleCount = s.cycleCount := rfl
@[simp] theorem State.raise_running (s : State) (e : Error) : (s.raise e).running = s.running := rfl
@[simp] theorem State.raise_polls (s : State) (e : Error) : (s.raise e).polls = s.polls := rfl
@[simp] theorem State.raise_get (s : State) (e : Error) (q : Reg) : (s.raise e).get q = s.get q := rfl

@[simp] theorem State.countCycle_regs (s : State) : (s.countCycle).regs = s.regs := rfl
@[simp] theorem State.countCycle_scratch (s : State) : (s.countCycle).scratch = s.scratch := rfl
@[simp] theorem State.countCycle_lastError (s : State) : (s.countCycle).lastError = s.lastError := rfl
@[simp] theorem State.countCycle_backing (s : State) : (s.countCycle).backing = s.backing := rfl
@[simp] theorem State.countCycle_prot (s : State) : (s.countCycle).prot = s.prot := rfl
@[simp] theorem State.countCycle_mmap (s : State) : (s.countCycle).mmap = s.mmap := rfl
@[simp] theorem State.countCycle_cycleCount (s : State) : (s.countCycle).cycleCount = s.cycleCount + 1 := rfl
@[simp] theorem State.countCycle_running (s : State) : (s.countCycle).running = s.running := rfl
@[simp] theorem State.countCycle_polls (s : State) : (s.countCycle).polls = s.polls := rfl
@[simp] theorem State.countCycle_get (s : State) (q : Reg) : (s.countCycle).get q = s.get q := rfl

@[simp] theorem State.poll_regs (s : State) : (s.poll).regs = s.regs := rfl
@[simp] theorem State.poll_scratch (s : State) : (s.poll).scratch = s.scratch := rfl
@[simp] theorem State.poll_lastError (s : State) : (s.poll).lastError = s.lastError := rfl
@[simp] theorem State.poll_backing (s : State) : (s.poll).backing = s.backing := rfl
@[simp] theorem State.poll_prot (s : State) : (s.poll).prot = s.prot := rfl
@[simp] theorem State.poll_mmap (s : State) : (s.poll).mmap = pollRegions (Config.keyEvent s.polls) s.mmap := rfl
@[simp] theorem State.poll_cycleCount (s : State) : (s.poll).cycleCount = s.cycleCount := rfl
@[simp] theorem State.poll_running (s : State) : (s.poll).running = s.running := rfl
@[simp] theorem State.poll_polls (s : State) : (s.poll).polls = s.polls + 1 := rfl
@[simp] theorem State.poll_get (s : State) (q : Reg) : (s.poll).get q = s.get q := rfl

@[simp] theorem State.endCycle_regs (s : State) : (s.endCycle).regs = s.regs := rfl
@[simp] theorem State.endCycle_scratch (s : State) : (s.endCycle).scratch = s.scratch := rfl
@[simp] theorem State.endCycle_lastError (s : State) : (s.endCycle).lastError = s.lastError := rfl
@[simp] theorem State.endCycle_backing (s : State) : (s.endCycle).backing = s.backing := rfl
@[simp] theorem State.endCycle_prot (s : State) : (s.endCycle).prot = s.prot := rfl
@[simp] theorem State.endCycle_mmap (s : State) :
    (s.endCycle).mmap = pollRegions (Config.keyEvent s.polls) s.mmap := rfl
@[simp] theorem State.endCycle_cycleCount (s : State) : (s.endCycle).cycleCount = s.cycleCount + 1 := rfl
@[simp] theorem State.endCycle_running (s : State) : (s.endCycle).running = s.running := rfl
@[simp] theorem State.endCycle_polls (s : State) : (s.endCycle).polls = s.polls + 1 := rfl
@[simp] theorem State.endCycle_get (s : State) (q : Reg) : (s.endCycle).get q = s.get q := rfl

@[simp] theorem State.afterLoad_regs (s : State) (ad : Word) : (s.afterLoad ad).regs = s.regs := rfl
@[simp] theorem State.afterLoad_scratch (s : State) (ad : Word) : (s.afterLoad ad).scratch = s.scratch := rfl
@[simp] theorem State.afterLoad_lastError (s : State) (ad : Word) : (s.afterLoad ad).lastError = s.lastError := rfl
@[simp] theorem State.afterLoad_backing (s : State) (ad : Word) : (s.afterLoad ad).backing = s.backing := rfl
@[simp] theorem State.afterLoad_prot (s : State) (ad : Word) : (s.afterLoad ad).prot = s.prot := rfl
@[simp] theorem State.afterLoad_mmap (s : State) (ad : Word) :
    (s.afterLoad ad).mmap = updateRegion ad.toNat (fun offset d => d.afterLoad offset) s.mmap := rfl
@[simp] theorem State.afterLoad_cycleCount (s : State) (ad : Word) : (s.afterLoad ad).cycleCount = s.cycleCount := rfl
@[simp] theorem State.afterLoad_running (s : State) (ad : Word) : (s.afterLoad ad).running = s.running := rfl
@[simp] theorem State.afterLoad_polls (s : State) (ad : Word) : (s.afterLoad ad).polls = s.polls := rfl
@[simp] theorem State.afterLoad_get (s : State) (ad : Word) (q : Reg) : (s.afterLoad ad).get q = s.get q := rfl

/-- A register file answers the value just written for that register and the old one for every other (10 R21). -/
@[simp] theorem RegFile.get_set (f : RegFile) (r q : Reg) (v : Word) :
    (f.set r v).get q = if q = r then v else f.get q := by
  cases r <;> cases q <;> rfl

/-- Reading a register after a write (10 R21, 00 R9). -/
@[simp] theorem State.setReg_get (s : State) (r q : Reg) (v : Word) :
    (s.setReg r v).get q = if q = r then v else s.get q := RegFile.get_set s.regs r q v

/-- Reading a register after the last cycle of a skip (43 R251). -/
@[simp] theorem State.finishSkip_get (s : State) (q : Reg) :
    s.finishSkip.get q = if q = .pc then s.scratch.nextPc else s.get q := RegFile.get_set s.regs .pc q s.scratch.nextPc

/-- Two register files that answer alike for every register are equal (10 R23). -/
theorem RegFile.ext_get (f g : RegFile) (h : ∀ q, f.get q = g.get q) : f = g := by
  cases f; cases g
  have := h .a; have := h .b; have := h .c; have := h .x; have := h .y; have := h .z
  have := h .i; have := h .j; have := h .sp; have := h .pc; have := h .ex; have := h .ia
  simp_all [RegFile.get]

end Sys2Proof.Machine
end

