-- ==== Sys2Proof/Laws/Memory.lean ====
section
/-! SUPPORT. Laws of the words by address and of the router: read after write, the canonical form is kept by every
operation, and what a change of one region's device does to the others. -/

namespace Sys2Proof.Machine

/-! ### Words by address -/

theorem WordMem.read_eq_zero_of_absent (m : WordMem) (ad : Nat) (h : ∀ cell ∈ m, cell.1 ≠ ad) :
    WordMem.read m ad = 0 := by
  induction m with
  | nil => rfl
  | cons cell m ih =>
    simp only [List.mem_cons, forall_eq_or_imp] at h
    simp only [WordMem.read, h.1, if_false]
    exact ih h.2

theorem WordMem.read_filter (m : WordMem) (ad q : Nat) :
    WordMem.read (m.filter (fun cell => cell.1 ≠ ad)) q = if q = ad then 0 else WordMem.read m q := by
  induction m with
  | nil => simp [WordMem.read]
  | cons cell m ih =>
    obtain ⟨k, v⟩ := cell
    by_cases hk : k = ad
    · subst hk
      by_cases hq : q = k
      · subst hq; simpa using ih
      · simpa [hq, Ne.symm hq, WordMem.read] using ih
    · by_cases hq : k = q
      · subst hq; simp [hk, WordMem.read]
      · simpa [hk, hq, WordMem.read] using ih

theorem WordMem.read_insert (m : WordMem) (ad : Nat) (v : Word) (q : Nat) (h : ∀ cell ∈ m, cell.1 ≠ ad) :
    WordMem.read (WordMem.insert ad v m) q = if q = ad then v else WordMem.read m q := by
  induction m with
  | nil => simp [WordMem.insert, WordMem.read, eq_comm]
  | cons cell m ih =>
    obtain ⟨k, w⟩ := cell
    simp only [List.mem_cons, forall_eq_or_imp] at h
    simp only [WordMem.insert]
    split
    · simp [WordMem.read, eq_comm]
    · have hk : k ≠ ad := h.1
      simp only [WordMem.read, ih h.2]
      by_cases hq : k = q
      · subst hq; simp [hk]
      · simp [hq]

/-- A word just written reads back, and every other word reads as before. -/
@[simp] theorem WordMem.read_write (m : WordMem) (ad : Nat) (v : Word) (q : Nat) :
    WordMem.read (WordMem.write m ad v) q = if q = ad then v else WordMem.read m q := by
  unfold WordMem.write
  split
  · next h => rw [WordMem.read_filter]; simp [h]
  · rw [WordMem.read_insert]
    · by_cases hq : q = ad
      · simp [hq]
      · rw [WordMem.read_filter]; simp [hq]
    · intro cell hc
      simpa using (List.mem_filter.mp hc).2

theorem WordMem.mem_insert (m : WordMem) (ad : Nat) (v : Word) (cell : Nat × Word) :
    cell ∈ WordMem.insert ad v m ↔ cell = (ad, v) ∨ cell ∈ m := by
  induction m with
  | nil => simp [WordMem.insert]
  | cons c m ih =>
    simp only [WordMem.insert]
    split
    · simp
    · simp [ih]; tauto

theorem WordMem.insert_rising (m : WordMem) (ad : Nat) (v : Word)
    (hm : m.Pairwise (fun cell later => cell.1 < later.1)) (h : ∀ cell ∈ m, cell.1 ≠ ad) :
    (WordMem.insert ad v m).Pairwise (fun cell later => cell.1 < later.1) := by
  induction m with
  | nil => simp [WordMem.insert]
  | cons c m ih =>
    obtain ⟨k, w⟩ := c
    simp only [List.mem_cons, forall_eq_or_imp] at h
    have hp := List.pairwise_cons.mp hm
    simp only [WordMem.insert]
    split
    · next hlt =>
      refine List.pairwise_cons.mpr ⟨?_, hm⟩
      intro cell hc
      rcases List.mem_cons.mp hc with rfl | hc
      · exact hlt
      · exact lt_trans hlt (hp.1 cell hc)
    · next hlt =>
      refine List.pairwise_cons.mpr ⟨?_, ih hp.2 h.2⟩
      intro cell hc
      rcases (WordMem.mem_insert m ad v cell).mp hc with rfl | hc
      · have : k ≠ ad := h.1
        simp only at hlt ⊢; omega
      · exact hp.1 cell hc

/-- A write keeps the canonical form. -/
theorem WordMem.write_wf (m : WordMem) (ad : Nat) (v : Word) (hm : WordMem.wf m) (had : ad < Config.memorySize) :
    WordMem.wf (WordMem.write m ad v) := by
  have hrise : (m.filter (fun cell => cell.1 ≠ ad)).Pairwise (fun cell later => cell.1 < later.1) := hm.1.filter _
  have hmem : ∀ cell ∈ m.filter (fun cell => cell.1 ≠ ad), cell.2 ≠ 0 ∧ cell.1 < Config.memorySize :=
    fun cell hc => hm.2 cell (List.mem_filter.mp hc).1
  unfold WordMem.write
  split
  · exact ⟨hrise, hmem⟩
  · next hv =>
    refine ⟨WordMem.insert_rising _ _ _ hrise (fun cell hc => by simpa using (List.mem_filter.mp hc).2), ?_⟩
    intro cell hc
    rcases (WordMem.mem_insert _ _ _ _).mp hc with rfl | hc
    · exact ⟨hv, had⟩
    · exact hmem cell hc

/-- A store keeps the canonical form of the backing store, whatever it comes to. -/
theorem State.store_backing_wf (s : State) (ad v : Word) (h : WordMem.wf s.backing) :
    ∀ t e, s.store ad v = .ok t ∨ s.store ad v = .raised e t → WordMem.wf t.backing := by
  intro t e ht
  unfold State.store at ht
  split at ht
  · rcases ht with ht | ht <;> cases ht; exact h
  · split at ht
    · rcases ht with ht | ht <;> cases ht; exact h
    · rcases ht with ht | ht <;> cases ht; exact WordMem.write_wf _ _ _ h ad.isLt

/-- The host's loader keeps it, for an image that fits (70 R352). -/
theorem loadWords_wf (m : WordMem) (start : Nat) (words : List Word) (h : WordMem.wf m)
    (hfit : start + words.length ≤ Config.memorySize) : WordMem.wf (loadWords m start words) := by
  induction words generalizing m start with
  | nil => exact h
  | cons w ws ih =>
    simp only [List.length_cons] at hfit
    exact ih _ _ (WordMem.write_wf _ _ _ h (by omega)) (by omega)

/-- Memory after reset is in the canonical form. -/
theorem reset_backing_wf : WordMem.wf State.reset.backing := by decide

theorem word_lt_memorySize (ad : Word) : ad.toNat < Config.memorySize := ad.isLt

/-! ### Regions and devices -/

/-- A change of one region's device moves no region. -/
@[simp] theorem updateRegion_bounds (ad : Nat) (change : Nat → Device → Device) (mm : List MapRegion) :
    regionBounds (updateRegion ad change mm) = regionBounds mm := by
  induction mm with
  | nil => rfl
  | cons r rs ih =>
    simp only [updateRegion]
    split
    · simp [regionBounds]
    · simpa [regionBounds] using ih

/-- The poll moves no region. -/
@[simp] theorem pollRegions_bounds (event : Option KeyEvent) (mm : List MapRegion) :
    regionBounds (pollRegions event mm) = regionBounds mm := by
  induction mm with
  | nil => rfl
  | cons r rs ih =>
    simp only [pollRegions]
    split
    · simp [regionBounds]
    · simpa [regionBounds] using ih

theorem regionAt_cons (r : MapRegion) (rs : List MapRegion) (q : Nat) :
    regionAt (r :: rs) q = if r.contains q then some r else regionAt rs q := by
  simp only [regionAt, List.find?_cons]
  cases r.contains q <;> simp

/-- After a change of the device at `ad`, the region at `q` is the old one, or the old one with its device changed, and then
`ad` is in it too. -/
theorem regionAt_updateRegion_cases (ad : Nat) (change : Nat → Device → Device) (mm : List MapRegion) (q : Nat) :
    regionAt (updateRegion ad change mm) q = regionAt mm q ∨
      ∃ r, regionAt mm q = some r ∧ r.contains ad = true ∧
        regionAt (updateRegion ad change mm) q = some { r with dev := change (ad - r.start) r.dev } := by
  induction mm with
  | nil => left; rfl
  | cons r rs ih =>
    simp only [updateRegion]
    split
    · next had =>
      rw [regionAt_cons, regionAt_cons]
      have hc : MapRegion.contains { r with dev := change (ad - r.start) r.dev } q = r.contains q := rfl
      rw [hc]
      by_cases hq : r.contains q = true
      · right; exact ⟨r, by simp [hq], had, by simp [hq]⟩
      · left; simp [hq]
    · rw [regionAt_cons, regionAt_cons]
      by_cases hq : r.contains q = true
      · left; simp [hq]
      · simpa [hq] using ih

/-- The region at the changed address holds the changed device. -/
theorem regionAt_updateRegion_same (ad : Nat) (change : Nat → Device → Device) (mm : List MapRegion) :
    regionAt (updateRegion ad change mm) ad =
      (regionAt mm ad).map (fun r => { r with dev := change (ad - r.start) r.dev }) := by
  induction mm with
  | nil => rfl
  | cons r rs ih =>
    simp only [updateRegion]
    split
    · next had =>
      rw [regionAt_cons, regionAt_cons]
      have hc : MapRegion.contains { r with dev := change (ad - r.start) r.dev } ad = r.contains ad := rfl
      rw [hc]; simp [had]
    · next had => rw [regionAt_cons, regionAt_cons]; simpa [had] using ih

/-- Where no region has the address, nothing changes. -/
theorem updateRegion_of_unmapped (ad : Nat) (change : Nat → Device → Device) (mm : List MapRegion)
    (h : regionAt mm ad = none) : updateRegion ad change mm = mm := by
  induction mm with
  | nil => rfl
  | cons r rs ih =>
    rw [regionAt_cons] at h
    split at h
    · cases h
    · next hc => simp [updateRegion, hc, ih h]

/-- After the poll, the region at an address is the old one, or the keyboard's with the poll's device. -/
theorem regionAt_pollRegions_cases (event : Option KeyEvent) (mm : List MapRegion) (q : Nat) :
    regionAt (pollRegions event mm) q = regionAt mm q ∨
      ∃ r, regionAt mm q = some r ∧ r.dev.isKeyboard = true ∧
        regionAt (pollRegions event mm) q = some { r with dev := r.dev.poll event } := by
  induction mm with
  | nil => left; rfl
  | cons r rs ih =>
    simp only [pollRegions]
    split
    · next hk =>
      rw [regionAt_cons, regionAt_cons]
      have hc : MapRegion.contains { r with dev := r.dev.poll event } q = r.contains q := rfl
      rw [hc]
      by_cases hq : r.contains q = true
      · right; exact ⟨r, by simp [hq], hk, by simp [hq]⟩
      · left; simp [hq]
    · rw [regionAt_cons, regionAt_cons]
      by_cases hq : r.contains q = true
      · left; simp [hq]
      · simpa [hq] using ih

@[simp] theorem regionAt_updateRegion_isSome (ad : Nat) (change : Nat → Device → Device) (mm : List MapRegion)
    (q : Nat) : (regionAt (updateRegion ad change mm) q).isSome = (regionAt mm q).isSome := by
  rcases regionAt_updateRegion_cases ad change mm q with h | ⟨r, h, -, h'⟩
  · rw [h]
  · rw [h, h']; rfl

@[simp] theorem regionAt_pollRegions_isSome (event : Option KeyEvent) (mm : List MapRegion) (q : Nat) :
    (regionAt (pollRegions event mm) q).isSome = (regionAt mm q).isSome := by
  rcases regionAt_pollRegions_cases event mm q with h | ⟨r, h, -, h'⟩
  · rw [h]
  · rw [h, h']; rfl

/-- Two states with mapped regions at the same places map the same addresses. -/
theorem isSome_of_bounds (mm mm' : List MapRegion) (h : regionBounds mm = regionBounds mm') (q : Nat) :
    (regionAt mm q).isSome = (regionAt mm' q).isSome := by
  induction mm generalizing mm' with
  | nil =>
    cases mm' with
    | nil => rfl
    | cons r rs => simp [regionBounds] at h
  | cons r rs ih =>
    cases mm' with
    | nil => simp [regionBounds] at h
    | cons r' rs' =>
      simp only [regionBounds, List.map_cons, List.cons.injEq, Region.mk.injEq] at h
      rw [regionAt_cons, regionAt_cons]
      have hc : r.contains q = r'.contains q := by simp [MapRegion.contains, h.1.1, h.1.2]
      rw [hc]
      split
      · rfl
      · exact ih rs' h.2

/-- With no event on offer a poll changes nothing (60 R318). -/
@[simp] theorem Device.poll_none (d : Device) : d.poll none = d := by
  cases d <;> simp [Device.poll]

/-- A poll changes the keyboard only (60 R318). -/
theorem Device.poll_of_not_keyboard (event : Option KeyEvent) (d : Device) (h : d.isKeyboard = false) : d.poll event = d := by
  cases d <;> first | rfl | simp [Device.isKeyboard] at h

/-- A word that the device keeps reads back after its store, and every other offset reads as before (60 R314, R315). -/
theorem Device.loadValue_afterStore (d : Device) (polls offset q : Nat) (v : Word) (h : d.keepsWord offset = true) :
    (d.afterStore offset v).loadValue polls q = if q = offset then v else d.loadValue polls q := by
  cases d with
  | video cells => exact WordMem.read_write cells offset v q
  | buffer words => exact WordMem.read_write words offset v q
  | keyboard ring cursor accepted =>
    have ho : offset < 16 := by simpa [Device.keepsWord] using h
    simp only [Device.afterStore, Device.loadValue]
    by_cases hq : q = offset
    · subst hq; simp [ho]
    · by_cases hq' : q < 16 <;> simp [hq, hq', Ne.symm hq]
  | external id log => simp [Device.keepsWord] at h

/-- Without a device of its own kind no load changes a device (20 R68). -/
theorem updateRegion_afterLoad (ad : Nat) (mm : List MapRegion)
    (h : mm.all (fun r => match r.dev with | .external _ _ => false | _ => true) = true) :
    updateRegion ad (fun offset d => d.afterLoad offset) mm = mm := by
  induction mm with
  | nil => rfl
  | cons r rs ih =>
    simp only [List.all_cons, Bool.and_eq_true] at h
    simp only [updateRegion, ih h.2]
    split
    · obtain ⟨start, length, dev⟩ := r
      cases dev <;> simp_all [Device.afterLoad]
    · rfl

/-- Without a device of its own kind, a load changes nothing at all (20 R68). -/
theorem State.afterLoad_of_noExternal (s : State) (ad : Word) (h : s.noExternal = true) : s.afterLoad ad = s := by
  have : updateRegion ad.toNat (fun offset d => d.afterLoad offset) s.mmap = s.mmap :=
    updateRegion_afterLoad ad.toNat s.mmap h
  simp only [State.afterLoad, this]

end Sys2Proof.Machine
end

