-- ==== Sys2Proof/Laws/Ops.lean ====
section
/-! SUPPORT. For each shared operation, once, what it can do: loads, stores, write-backs, operand resolution, and the cycles
of one instruction up to its completing cycle. -/

namespace Sys2Proof.Machine

/-! ### What keeps the memory -/

theorem State.KeepsMemory.refl (s : State) : s.KeepsMemory s :=
  ⟨rfl, rfl, rfl, rfl, rfl, fun _ h => ⟨h, rfl⟩⟩

theorem State.KeepsMemory.trans {s t u : State} (h : s.KeepsMemory t) (h' : t.KeepsMemory u) : s.KeepsMemory u :=
  ⟨h'.backing.trans h.backing, h'.prot.trans h.prot, h'.lastError.trans h.lastError, h'.running.trans h.running,
    h'.bounds.trans h.bounds, fun ad hq =>
      ⟨(h'.quiet ad (h.quiet ad hq).1).1, ((h'.quiet ad (h.quiet ad hq).1).2).trans (h.quiet ad hq).2⟩⟩

/-- A change of registers, scratch and counters only keeps the memory. -/
theorem State.keepsMemory_of_eq {s t : State} (hb : t.backing = s.backing) (hp : t.prot = s.prot)
    (hl : t.lastError = s.lastError) (hr : t.running = s.running) (hm : t.mmap = s.mmap) (hn : t.polls = s.polls) :
    s.KeepsMemory t :=
  ⟨hb, hp, hl, hr, by rw [hm], fun ad hq => by simp only [State.quietAt, State.loadValue, hm, hb, hn] at *; exact ⟨hq, trivial⟩⟩

/-- A load keeps the memory. -/
theorem State.afterLoad_keepsMemory (s : State) (ad : Word) : s.KeepsMemory (s.afterLoad ad) := by
  refine ⟨rfl, rfl, rfl, rfl, updateRegion_bounds _ _ _, fun q hq => ?_⟩
  rcases regionAt_updateRegion_cases ad.toNat (fun offset d => d.afterLoad offset) s.mmap q.toNat with h | ⟨r, h, -, h'⟩
  · simp only [State.quietAt, State.loadValue, State.afterLoad_mmap, State.afterLoad_backing, State.afterLoad_polls, h] at *
    exact ⟨hq, trivial⟩
  · simp only [State.quietAt, State.loadValue, State.afterLoad_mmap, State.afterLoad_polls, h, h'] at *
    cases hd : r.dev <;> simp [hd, Device.afterLoad] at hq ⊢

/-- The end of a cycle keeps the memory. -/
theorem State.endCycle_keepsMemory (s : State) : s.KeepsMemory s.endCycle := by
  refine ⟨rfl, rfl, rfl, rfl, pollRegions_bounds _ _, fun q hq => ?_⟩
  rcases regionAt_pollRegions_cases (Config.keyEvent s.polls) s.mmap q.toNat with h | ⟨r, h, hk, h'⟩
  · simp only [State.quietAt, State.loadValue, State.endCycle_mmap, State.endCycle_backing, State.endCycle_polls, h] at *
    refine ⟨hq, ?_⟩
    cases hr : regionAt s.mmap q.toNat with
    | none => rfl
    | some r =>
      simp only [hr] at hq
      cases hd : r.dev <;> simp [hd, Device.loadValue] at hq ⊢
  · simp only [State.quietAt, h] at hq
    cases hd : r.dev <;> simp [hd, Device.isKeyboard] at hq hk

theorem State.setReg_keepsMemory (s : State) (r : Reg) (v : Word) : s.KeepsMemory (s.setReg r v) :=
  State.keepsMemory_of_eq rfl rfl rfl rfl rfl rfl

theorem State.scratch_keepsMemory (s : State) (f : Scratch) : s.KeepsMemory { s with scratch := f } :=
  State.keepsMemory_of_eq rfl rfl rfl rfl rfl rfl

/-! ### Loads and next words -/

@[simp] theorem State.nextWord_value (s : State) : s.nextWord.value = s.loadValue (s.get .pc) := rfl

@[simp] theorem State.nextWord_after_get (s : State) (q : Reg) :
    s.nextWord.after.get q = if q = .pc then s.get .pc + 1 else s.get q := by
  simp [State.nextWord]

@[simp] theorem State.nextWord_after_scratch (s : State) : s.nextWord.after.scratch = s.scratch := rfl
@[simp] theorem State.nextWord_after_cycleCount (s : State) : s.nextWord.after.cycleCount = s.cycleCount := rfl
@[simp] theorem State.nextWord_after_polls (s : State) : s.nextWord.after.polls = s.polls := rfl
@[simp] theorem State.nextWord_after_backing (s : State) : s.nextWord.after.backing = s.backing := rfl
@[simp] theorem State.nextWord_after_prot (s : State) : s.nextWord.after.prot = s.prot := rfl
@[simp] theorem State.nextWord_after_lastError (s : State) : s.nextWord.after.lastError = s.lastError := rfl

theorem State.nextWord_keepsMemory (s : State) : s.KeepsMemory s.nextWord.after :=
  (s.afterLoad_keepsMemory _).trans (State.setReg_keepsMemory _ _ _)

/-! ### Stores and write-backs -/

/-- Everything a store can do (20 R53). -/
theorem State.store_cases (s : State) (ad v : Word) :
    (s.isMapped ad = true ∧ s.store ad v =
        .ok { s with mmap := updateRegion ad.toNat (fun offset d => d.afterStore offset v) s.mmap }) ∨
    (s.isMapped ad = false ∧ isProtected s.prot ad.toNat = true ∧ s.store ad v = .raised (.protection ad) s) ∨
    (s.isMapped ad = false ∧ isProtected s.prot ad.toNat = false ∧
      s.store ad v = .ok { s with backing := WordMem.write s.backing ad.toNat v }) := by
  unfold State.store
  cases s.isMapped ad <;> cases isProtected s.prot ad.toNat <;> simp

/-- A store that is not refused answers the state with the word stored, in the device or in the backing store. -/
theorem State.store_of_accepted (s : State) (ad v : Word) (h : s.storeRefused ad = false) :
    s.store ad v = .ok (if s.isMapped ad then
        { s with mmap := updateRegion ad.toNat (fun offset d => d.afterStore offset v) s.mmap }
      else { s with backing := WordMem.write s.backing ad.toNat v }) := by
  unfold State.storeRefused at h
  unfold State.store
  cases hm : s.isMapped ad <;> simp_all

/-- A refused store raises ProtectionError and changes nothing (60 R301). -/
theorem State.store_of_refused (s : State) (ad v : Word) (h : s.storeRefused ad = true) :
    s.store ad v = .raised (.protection ad) s := by
  unfold State.storeRefused at h
  unfold State.store
  cases hm : s.isMapped ad <;> simp_all

/-- The state with a word written back to a target that accepts it: what `commit` answers then. -/
def State.written (s : State) (target : Address) (v : Word) : State :=
  match target with
  | .none => s
  | .register r => s.setReg r v
  | .memory ad =>
    if s.isMapped ad then
      { s with mmap := updateRegion ad.toNat (fun offset d => d.afterStore offset v) s.mmap }
    else { s with backing := WordMem.write s.backing ad.toNat v }

/-- An accepted write-back (40 R140). -/
theorem State.commit_of_accepts (s : State) (target : Address) (v : Word) (h : s.accepts target = true) :
    s.commit target v = .ok (s.written target v) := by
  cases target with
  | none => rfl
  | register r => rfl
  | memory ad =>
    have h' : s.storeRefused ad = false := by simpa [State.accepts] using h
    simp only [State.commit, State.store_of_accepted s ad v h', State.written]

/-- A refused write-back (40 R140). -/
theorem State.commit_of_refused (s : State) (ad v : Word) (h : s.storeRefused ad = true) :
    s.commit (.memory ad) v = .raised (.protection ad) s := State.store_of_refused s ad v h

@[simp] theorem State.written_scratch (s : State) (target : Address) (v : Word) :
    (s.written target v).scratch = s.scratch := by
  unfold State.written; split <;> first | rfl | (split <;> rfl)
@[simp] theorem State.written_lastError (s : State) (target : Address) (v : Word) :
    (s.written target v).lastError = s.lastError := by
  unfold State.written; split <;> first | rfl | (split <;> rfl)
@[simp] theorem State.written_prot (s : State) (target : Address) (v : Word) :
    (s.written target v).prot = s.prot := by
  unfold State.written; split <;> first | rfl | (split <;> rfl)
@[simp] theorem State.written_cycleCount (s : State) (target : Address) (v : Word) :
    (s.written target v).cycleCount = s.cycleCount := by
  unfold State.written; split <;> first | rfl | (split <;> rfl)
@[simp] theorem State.written_running (s : State) (target : Address) (v : Word) :
    (s.written target v).running = s.running := by
  unfold State.written; split <;> first | rfl | (split <;> rfl)
@[simp] theorem State.written_polls (s : State) (target : Address) (v : Word) :
    (s.written target v).polls = s.polls := by
  unfold State.written; split <;> first | rfl | (split <;> rfl)

@[simp] theorem State.written_get (s : State) (target : Address) (v : Word) (q : Reg) :
    (s.written target v).get q = if target = .register q then v else s.get q := by
  unfold State.written
  split
  · simp
  · simp only [State.setReg_get, Address.register.injEq]
    simp only [eq_comm]
  · split <;> simp [State.get]

theorem State.written_backing_read (s : State) (target : Address) (v ad : Word) :
    WordMem.read (s.written target v).backing ad.toNat =
      if target = .memory ad ∧ s.isMapped ad = false then v else WordMem.read s.backing ad.toNat := by
  unfold State.written
  split
  · simp
  · simp
  · next at' =>
    split
    · next h => by_cases hq : at' = ad <;> simp_all
    · next h =>
      by_cases hq : at' = ad
      · subst hq; simp_all
      · have : ¬ ad.toNat = at'.toNat := fun h => hq (BitVec.eq_of_toNat_eq h.symm)
        simp [hq, this]

@[simp] theorem State.written_bounds (s : State) (target : Address) (v : Word) :
    regionBounds (s.written target v).mmap = regionBounds s.mmap := by
  unfold State.written
  split
  · rfl
  · rfl
  · split
    · exact updateRegion_bounds _ _ _
    · rfl

/-- The mapped regions after an accepted write-back: only a store into a region changes a device. -/
theorem State.written_mmap (s : State) (target : Address) (v : Word) :
    (s.written target v).mmap = match target with
      | .memory ad => updateRegion ad.toNat (fun offset d => d.afterStore offset v) s.mmap
      | _ => s.mmap := by
  unfold State.written
  split
  · rfl
  · rfl
  · next ad =>
    split
    · rfl
    · next h =>
      exact (updateRegion_of_unmapped _ _ _ (by simpa [State.isMapped] using h)).symm

/-- A write-back leaves every quiet address but its target as it was. -/
theorem State.written_quiet (s : State) (target : Address) (v q : Word) (hne : target ≠ .memory q)
    (hq : s.quietAt q = true) :
    (s.written target v).quietAt q = true ∧ (s.written target v).loadValue q = s.loadValue q := by
  unfold State.written
  split
  · exact ⟨hq, rfl⟩
  · exact ⟨hq, rfl⟩
  · next ad =>
    have hqa : ¬ q.toNat = ad.toNat := fun h => hne (by rw [BitVec.eq_of_toNat_eq h])
    split
    · rcases regionAt_updateRegion_cases ad.toNat (fun offset d => d.afterStore offset v) s.mmap q.toNat with
        h | ⟨r, h, hc, h'⟩
      · simp only [State.quietAt, State.loadValue, h] at *; exact ⟨hq, trivial⟩
      · have hcq : r.contains q.toNat = true := by
          simpa using List.find?_some h
        simp only [MapRegion.contains, Bool.and_eq_true, decide_eq_true_eq] at hc hcq
        have hoff : ¬ q.toNat - r.start = ad.toNat - r.start := by omega
        simp only [State.quietAt, State.loadValue, h, h'] at *
        cases hd : r.dev <;> simp [hd, Device.afterStore, Device.loadValue, hoff] at hq ⊢
    · simp only [State.quietAt, State.loadValue] at *
      split <;> simp_all

/-! ### Operand resolution -/

/-- Every way a resolved operand leaves the state: registers other than PC and SP untouched, the memory kept, the scratch
and the counters untouched (40 R136). -/
theorem resolve_keeps (o : Operand) (s : State) :
    s.KeepsMemory (resolve o s).after ∧ (resolve o s).after.scratch = s.scratch ∧
      (resolve o s).after.cycleCount = s.cycleCount ∧ (resolve o s).after.polls = s.polls := by
  cases o
  all_goals first
    | exact ⟨State.KeepsMemory.refl s, rfl, rfl, rfl⟩
    | exact ⟨s.afterLoad_keepsMemory _, rfl, rfl, rfl⟩
    | exact ⟨(State.setReg_keepsMemory s _ _).trans (State.afterLoad_keepsMemory _ _), rfl, rfl, rfl⟩
    | exact ⟨s.nextWord_keepsMemory.trans (State.afterLoad_keepsMemory _ _), rfl, rfl, rfl⟩
    | exact ⟨s.nextWord_keepsMemory, rfl, rfl, rfl⟩

/-- The registers after an operand resolved: PC has passed the next word, if any, and PUSH and POP have moved SP (40
R136). -/
theorem resolve_get (o : Operand) (s : State) (q : Reg) :
    (resolve o s).after.get q =
      if q = .pc then s.get .pc + (if o.needsWord then 1 else 0)
      else if q = .sp then (if o = .push then s.get .sp - 1 else if o = .pop then s.get .sp + 1 else s.get .sp)
      else s.get q := by
  cases o <;> simp only [resolve, State.resolveReg, State.resolveAt, Operand.needsWord]
  all_goals
    by_cases hp : q = .pc <;> by_cases hs : q = .sp <;> simp_all

/-! ### The cycles of one instruction -/

theorem State.waitForWord_keepsMemory (s : State) (o : Operand) : s.KeepsMemory (s.waitForWord o) := by
  unfold State.waitForWord
  split
  · exact (State.scratch_keepsMemory s _).trans (State.endCycle_keepsMemory _)
  · exact State.KeepsMemory.refl s

@[simp] theorem State.waitForWord_get (s : State) (o : Operand) (q : Reg) : (s.waitForWord o).get q = s.get q := by
  unfold State.waitForWord; split <;> rfl

theorem State.waitForWord_cycleCount (s : State) (o : Operand) :
    (s.waitForWord o).cycleCount = s.cycleCount + o.ext := by
  unfold State.waitForWord Operand.ext; split <;> rfl

theorem State.waitForWord_polls (s : State) (o : Operand) : (s.waitForWord o).polls = s.polls + o.ext := by
  unfold State.waitForWord Operand.ext; split <;> rfl

theorem State.resolveA_keepsMemory (s : State) (a : Operand) : s.KeepsMemory (s.resolveA a) :=
  (State.scratch_keepsMemory s _).trans ((resolve_keeps a (s.setDelayed false)).1.trans (State.scratch_keepsMemory _ _))

theorem State.resolveB_keepsMemory (s : State) (b : Operand) : s.KeepsMemory (s.resolveB b) :=
  (State.scratch_keepsMemory s _).trans ((resolve_keeps b (s.setDelayed false)).1.trans (State.scratch_keepsMemory _ _))

theorem State.resolveA_scratch (s : State) (a : Operand) :
    (s.resolveA a).scratch = { s.scratch with
      delayed := false, va := (resolve a (s.setDelayed false)).value,
      addrA := (resolve a (s.setDelayed false)).target } := by
  simp only [State.resolveA, State.setOperandA, (resolve_keeps a (s.setDelayed false)).2.1]; rfl

theorem State.resolveB_scratch (s : State) (b : Operand) :
    (s.resolveB b).scratch = { s.scratch with
      delayed := false, vb := (resolve b (s.setDelayed false)).value,
      addrB := (resolve b (s.setDelayed false)).target } := by
  simp only [State.resolveB, State.setOperandB, (resolve_keeps b (s.setDelayed false)).2.1]; rfl

@[simp] theorem State.resolveA_cycleCount (s : State) (a : Operand) : (s.resolveA a).cycleCount = s.cycleCount :=
  (resolve_keeps a (s.setDelayed false)).2.2.1
@[simp] theorem State.resolveB_cycleCount (s : State) (b : Operand) : (s.resolveB b).cycleCount = s.cycleCount :=
  (resolve_keeps b (s.setDelayed false)).2.2.1
@[simp] theorem State.resolveA_polls (s : State) (a : Operand) : (s.resolveA a).polls = s.polls :=
  (resolve_keeps a (s.setDelayed false)).2.2.2
@[simp] theorem State.resolveB_polls (s : State) (b : Operand) : (s.resolveB b).polls = s.polls :=
  (resolve_keeps b (s.setDelayed false)).2.2.2

theorem State.resolveA_get (s : State) (a : Operand) (q : Reg) :
    (s.resolveA a).get q = (resolve a (s.setDelayed false)).after.get q := rfl
theorem State.resolveB_get (s : State) (b : Operand) (q : Reg) :
    (s.resolveB b).get q = (resolve b (s.setDelayed false)).after.get q := rfl

/-- Counting the cost down changes `remaining`, the counters and what the poll changes, nothing else. -/
theorem burnCycles_spec (n : Nat) (s : State) :
    s.KeepsMemory (burnCycles n s) ∧ (burnCycles n s).regs = s.regs ∧
      (burnCycles n s).scratch = { s.scratch with remaining := s.scratch.remaining - n } ∧
      (burnCycles n s).cycleCount = s.cycleCount + n ∧ (burnCycles n s).polls = s.polls + n := by
  induction n generalizing s with
  | zero => exact ⟨State.KeepsMemory.refl s, rfl, rfl, rfl, rfl⟩
  | succ n ih =>
    obtain ⟨h1, h2, h3, h4, h5⟩ := ih (s.setRemaining (s.scratch.remaining - 1)).endCycle
    refine ⟨((State.scratch_keepsMemory s _).trans (State.endCycle_keepsMemory _)).trans h1, h2, ?_, ?_, ?_⟩
    · simp only [burnCycles, h3]
      simp only [State.endCycle_scratch, State.setRemaining]
      congr 1; omega
    · simp only [burnCycles, h4, State.endCycle_cycleCount, State.setRemaining_cycleCount]; omega
    · simp only [burnCycles, h5, State.endCycle_polls, State.setRemaining_polls]; omega

@[simp] theorem burnCycles_get (n : Nat) (s : State) (q : Reg) : (burnCycles n s).get q = s.get q := by
  simp only [State.get, (burnCycles_spec n s).2.1]

/-- A special instruction keeps the memory up to its completing cycle. -/
theorem specialAtCompletion_keepsMemory (cost : Nat) (a : Operand) (s : State) :
    s.KeepsMemory (specialAtCompletion cost a s) :=
  (State.scratch_keepsMemory s _).trans
    ((State.waitForWord_keepsMemory _ a).trans
      ((State.resolveA_keepsMemory _ a).trans
        ((State.scratch_keepsMemory _ _).trans ((burnCycles_spec _ _).1.trans (State.scratch_keepsMemory _ _)))))

/-- A basic instruction keeps the memory up to its completing cycle. -/
theorem basicAtCompletion_keepsMemory (cost : Nat) (b a : Operand) (s : State) :
    s.KeepsMemory (basicAtCompletion cost b a s) :=
  (State.scratch_keepsMemory s _).trans
    ((State.waitForWord_keepsMemory _ a).trans
      ((State.resolveA_keepsMemory _ a).trans
        ((State.scratch_keepsMemory _ _).trans
          ((State.waitForWord_keepsMemory _ b).trans
            ((State.resolveB_keepsMemory _ b).trans
              ((State.scratch_keepsMemory _ _).trans
                ((burnCycles_spec _ _).1.trans (State.scratch_keepsMemory _ _))))))))

@[simp] theorem State.waitForWord_step (s : State) (o : Operand) : (s.waitForWord o).scratch.step = s.scratch.step := by
  unfold State.waitForWord; split <;> rfl
@[simp] theorem State.waitForWord_remaining (s : State) (o : Operand) :
    (s.waitForWord o).scratch.remaining = s.scratch.remaining := by
  unfold State.waitForWord; split <;> rfl
@[simp] theorem State.waitForWord_synth (s : State) (o : Operand) :
    (s.waitForWord o).scratch.synth = s.scratch.synth := by
  unfold State.waitForWord; split <;> rfl

/-- The scratch of a basic instruction where it performs: FETCH set already, the cost run down, no latch set (40 R132). -/
theorem basicAtCompletion_scratch (cost : Nat) (hc : 1 ≤ cost) (b a : Operand) (s : State) :
    (basicAtCompletion cost b a s).scratch.step = .fetch ∧
      (basicAtCompletion cost b a s).scratch.remaining = 1 ∧
      (basicAtCompletion cost b a s).scratch.delayed = false ∧
      (basicAtCompletion cost b a s).scratch.synth = false := by
  simp only [basicAtCompletion, (burnCycles_spec _ _).2.2.1, State.decodeA, State.decodeB, State.resolveA_scratch,
    State.resolveB_scratch, State.setPhase, State.waitForWord_remaining, State.waitForWord_synth,
    State.startInstr_remaining, State.startInstr_synth]
  refine ⟨trivial, ?_, trivial, trivial⟩
  omega

/-- The scratch of a special instruction where it performs (40 R132). -/
theorem specialAtCompletion_scratch (cost : Nat) (hc : 1 ≤ cost) (a : Operand) (s : State) :
    (specialAtCompletion cost a s).scratch.step = .fetch ∧
      (specialAtCompletion cost a s).scratch.remaining = 1 ∧
      (specialAtCompletion cost a s).scratch.delayed = false ∧
      (specialAtCompletion cost a s).scratch.synth = false := by
  simp only [specialAtCompletion, (burnCycles_spec _ _).2.2.1, State.decodeA, State.resolveA_scratch,
    State.setPhase, State.waitForWord_remaining, State.waitForWord_synth,
    State.startInstr_remaining, State.startInstr_synth]
  refine ⟨trivial, ?_, trivial, trivial⟩
  omega

theorem State.decodeA_cycleCount (s : State) (a : Operand) : (s.decodeA a).cycleCount = s.cycleCount + a.ext := by
  simp [State.decodeA, State.waitForWord_cycleCount]
theorem State.decodeB_cycleCount (s : State) (b : Operand) : (s.decodeB b).cycleCount = s.cycleCount + b.ext := by
  simp [State.decodeB, State.waitForWord_cycleCount]
theorem State.decodeA_polls (s : State) (a : Operand) : (s.decodeA a).polls = s.polls + a.ext := by
  simp [State.decodeA, State.waitForWord_polls]
theorem State.decodeB_polls (s : State) (b : Operand) : (s.decodeB b).polls = s.polls + b.ext := by
  simp [State.decodeB, State.waitForWord_polls]

/-- The cycles before a basic instruction's completing cycle (40 R143). -/
theorem basicAtCompletion_cycles (cost : Nat) (b a : Operand) (s : State) :
    (basicAtCompletion cost b a s).cycleCount = s.cycleCount + (cost - 1) + a.ext + b.ext ∧
      (basicAtCompletion cost b a s).polls = s.polls + (cost - 1) + a.ext + b.ext := by
  simp only [basicAtCompletion, State.setPhase_cycleCount, State.setPhase_polls, (burnCycles_spec _ _).2.2.2.1,
    (burnCycles_spec _ _).2.2.2.2, State.decodeA_cycleCount, State.decodeB_cycleCount,
    State.decodeA_polls, State.decodeB_polls, State.startInstr_cycleCount, State.startInstr_polls]
  omega

/-- The cycles before a special instruction's completing cycle (40 R143). -/
theorem specialAtCompletion_cycles (cost : Nat) (a : Operand) (s : State) :
    (specialAtCompletion cost a s).cycleCount = s.cycleCount + (cost - 1) + a.ext ∧
      (specialAtCompletion cost a s).polls = s.polls + (cost - 1) + a.ext := by
  simp only [specialAtCompletion, State.setPhase_cycleCount, State.setPhase_polls, (burnCycles_spec _ _).2.2.2.1,
    (burnCycles_spec _ _).2.2.2.2, State.decodeA_cycleCount,
    State.decodeA_polls, State.startInstr_cycleCount, State.startInstr_polls]
  omega

theorem State.decodeA_get (s : State) (a : Operand) (q : Reg) :
    (s.decodeA a).get q =
      if q = .pc then s.get .pc + (if a.needsWord then 1 else 0)
      else if q = .sp then (if a = .push then s.get .sp - 1 else if a = .pop then s.get .sp + 1 else s.get .sp)
      else s.get q := by
  simp only [State.decodeA, State.resolveA_get, resolve_get, State.setDelayed_get, State.waitForWord_get]
theorem State.decodeB_get (s : State) (b : Operand) (q : Reg) :
    (s.decodeB b).get q =
      if q = .pc then s.get .pc + (if b.needsWord then 1 else 0)
      else if q = .sp then (if b = .push then s.get .sp - 1 else if b = .pop then s.get .sp + 1 else s.get .sp)
      else s.get q := by
  simp only [State.decodeB, State.resolveB_get, resolve_get, State.setDelayed_get, State.waitForWord_get]

/-- The registers of a basic instruction at its completing cycle are those its operands left. -/
theorem basicAtCompletion_get (cost : Nat) (b a : Operand) (s : State) (q : Reg) :
    (basicAtCompletion cost b a s).get q = ((s.decodeA a).decodeB b).get q := by
  simp only [basicAtCompletion, burnCycles_get, State.setPhase_get, State.decodeB_get, State.decodeA_get,
    State.startInstr_get]

/-- The registers of a special instruction at its completing cycle are those its operand left. -/
theorem specialAtCompletion_get (cost : Nat) (a : Operand) (s : State) (q : Reg) :
    (specialAtCompletion cost a s).get q = (s.decodeA a).get q := by
  simp only [specialAtCompletion, burnCycles_get, State.setPhase_get, State.decodeA_get, State.startInstr_get]

end Sys2Proof.Machine
end

