-- ==== Sys2Proof/Laws/Instr.lean ====
section
/-! SUPPORT. From the completing cycle to the boundary: the write-back of a basic instruction, the pushes, the skip chain
and the cycles of a skip. -/

namespace Sys2Proof.Machine

@[simp] theorem Effect.complete_ok (s : State) : (Effect.ok s).complete = .finished s := rfl
@[simp] theorem Effect.complete_raised (e : Error) (s : State) : (Effect.raised e s).complete = .raised e s := rfl
@[simp] theorem Effect.andThen_ok (s : State) (f : State → Effect) : (Effect.ok s).andThen f = f s := rfl
@[simp] theorem Effect.andThen_raised (e : Error) (s : State) (f : State → Effect) :
    (Effect.raised e s).andThen f = .raised e s := rfl
@[simp] theorem settle_finished (s : State) : settle (.finished s) = .next s.endCycle := rfl
@[simp] theorem settle_raised (e : Error) (s : State) : settle (.raised e s) = .next (s.raise e).countCycle := rfl
@[simp] theorem settle_skipping (s : State) : settle (.skipping s) = .next (runSkip s) := rfl
@[simp] theorem settle_stuck : settle .stuck = .fault .skipChainNeverEnds := rfl

/-- Writing back the EX that stands there changes nothing (10 R27). -/
theorem State.setReg_get_self (s : State) (r : Reg) : s.setReg r (s.get r) = s := by
  have : s.regs.set r (s.regs.get r) = s.regs := RegFile.ext_get _ _ (fun q => by
    rw [RegFile.get_set]; split <;> simp_all)
  simp only [State.setReg, State.get, this]

/-- A result alone is a write-back with EX as it stands. -/
theorem State.writeB_eq (s : State) (v : Word) : s.writeB v = s.writeExAndB (s.get .ex) v := by
  simp only [State.writeB, State.writeExAndB, State.setReg_get_self]

@[simp] theorem State.setReg_accepts (s : State) (r : Reg) (v : Word) (target : Address) :
    (s.setReg r v).accepts target = s.accepts target := rfl
@[simp] theorem State.setReg_storeRefused (s : State) (r : Reg) (v ad : Word) :
    (s.setReg r v).storeRefused ad = s.storeRefused ad := rfl
@[simp] theorem State.setReg_isMapped (s : State) (r : Reg) (v ad : Word) :
    (s.setReg r v).isMapped ad = s.isMapped ad := rfl

/-- What a basic instruction that writes b comes to when its write-back is accepted (40 R139). -/
theorem settle_writeExAndB (r : State) (x v : Word) (h : r.accepts r.scratch.addrB = true) :
    settle (r.writeExAndB x v).complete =
      .next (((r.setReg .ex x).written r.scratch.addrB v).endCycle) := by
  simp only [State.writeExAndB, State.commit_of_accepts (r.setReg .ex x) r.scratch.addrB v h,
    Effect.complete_ok, settle_finished]

/-- What it comes to when the store is refused: EX is written already (40 R147, 92 D13). -/
theorem settle_writeExAndB_refused (r : State) (x v ad : Word) (ht : r.scratch.addrB = .memory ad)
    (h : r.storeRefused ad = true) :
    settle (r.writeExAndB x v).complete = .next (((r.setReg .ex x).raise (.protection ad)).countCycle) := by
  simp only [State.writeExAndB, ht, State.commit_of_refused (r.setReg .ex x) ad v h,
    Effect.complete_raised, settle_raised]

/-- A push that is not refused (44 R270). -/
theorem State.pushWord_of_accepted (s : State) (v : Word) (h : s.storeRefused (s.get .sp - 1) = false) :
    s.pushWord v = .ok ((s.setReg .sp (s.get .sp - 1)).written (.memory (s.get .sp - 1)) v) := by
  have h' : (s.setReg .sp (s.get .sp - 1)).accepts (.memory (s.get .sp - 1)) = true := by
    simp only [State.accepts, State.setReg_storeRefused, h, Bool.not_false]
  have := State.commit_of_accepts (s.setReg .sp (s.get .sp - 1)) (.memory (s.get .sp - 1)) v h'
  simpa only [State.pushWord, State.commit, State.setReg_get, if_true] using this

/-- A refused push: SP stays lowered (92 D13). -/
theorem State.pushWord_of_refused (s : State) (v : Word) (h : s.storeRefused (s.get .sp - 1) = true) :
    s.pushWord v = .raised (.protection (s.get .sp - 1)) (s.setReg .sp (s.get .sp - 1)) := by
  have := State.store_of_refused (s.setReg .sp (s.get .sp - 1)) (s.get .sp - 1) v h
  simpa only [State.pushWord, State.setReg_get, if_true] using this

/-- Whether a store is refused depends on P and on where the regions lie only. -/
theorem State.storeRefused_of_bounds (s t : State) (ad : Word) (hp : t.prot = s.prot)
    (hb : regionBounds t.mmap = regionBounds s.mmap) : t.storeRefused ad = s.storeRefused ad := by
  simp only [State.storeRefused, State.isMapped, hp, isSome_of_bounds _ _ hb]

/-- Whether an address is mapped depends on where the regions lie only. -/
theorem State.isMapped_of_bounds (s t : State) (ad : Word)
    (hb : regionBounds t.mmap = regionBounds s.mmap) : t.isMapped ad = s.isMapped ad := by
  simp only [State.isMapped, isSome_of_bounds _ _ hb]

/-- Everything a scan can do (43 R250): it counts at most `fuel` instructions more, and only its loads change the state. -/
theorem scanChain_spec (fuel : Nat) (p : Word) (k : Nat) (s : State) (chain : ChainEnd)
    (h : scanChain fuel p k s = some chain) :
    k + 1 ≤ chain.skipped ∧ chain.skipped ≤ k + fuel ∧ s.KeepsMemory chain.after ∧ chain.after.regs = s.regs ∧
      chain.after.scratch = s.scratch ∧ chain.after.cycleCount = s.cycleCount ∧ chain.after.polls = s.polls := by
  induction fuel generalizing p k s with
  | zero => simp [scanChain] at h
  | succ n ih =>
    simp only [scanChain] at h
    split at h
    · obtain ⟨h1, h2, h3, h4, h5, h6, h7⟩ := ih _ _ _ h
      exact ⟨by omega, by omega, (s.afterLoad_keepsMemory p).trans h3, h4, h5, h6, h7⟩
    · cases h
      exact ⟨le_refl _, by simp, s.afterLoad_keepsMemory p, rfl, rfl, rfl, rfl⟩

/-- Everything the cycles of a skip can do (43 R251). -/
theorem runSkip_spec (s : State) (hk : 1 ≤ s.scratch.remaining) :
    s.KeepsMemory (runSkip s) ∧ (∀ q, (runSkip s).get q = if q = .pc then s.scratch.nextPc else s.get q) ∧
      (runSkip s).scratch = { s.scratch with remaining := 1, step := .fetch, synth := false } ∧
      (runSkip s).cycleCount = s.cycleCount + s.scratch.remaining + 1 ∧
      (runSkip s).polls = s.polls + s.scratch.remaining + 1 := by
  obtain ⟨h1, h2, h3, h4, h5⟩ := burnCycles_spec (s.scratch.remaining - 1) s.endCycle
  simp only [State.endCycle_scratch, State.endCycle_cycleCount, State.endCycle_polls] at h3 h4 h5
  refine ⟨?_, ?_, ?_, ?_, ?_⟩
  · have h6 : ∀ u : State, u.KeepsMemory u.finishSkip := fun u => State.keepsMemory_of_eq rfl rfl rfl rfl rfl rfl
    exact ((s.endCycle_keepsMemory.trans h1).trans (h6 _)).trans (State.endCycle_keepsMemory _)
  · intro q
    simp only [runSkip, State.endCycle_get, State.finishSkip_get, h3, burnCycles_get]
  · have hr : s.scratch.remaining - (s.scratch.remaining - 1) = 1 := by omega
    simp only [runSkip, State.endCycle_scratch, State.finishSkip, h3, hr]
  · simp only [runSkip, State.endCycle_cycleCount, State.finishSkip_cycleCount, h4]; omega
  · simp only [runSkip, State.endCycle_polls, State.finishSkip_polls, h5]; omega

end Sys2Proof.Machine
end

