-- ==== Sys2Proof/Laws/Numbers.lean ====
section
/-! SUPPORT. The readings of a word and the results of the arithmetic, in the terms of BitVec. -/

namespace Sys2Proof.Machine

@[simp] theorem unsignedOf_eq (v : Word) : unsignedOf v = v.toNat := rfl

@[simp] theorem signedOf_eq (v : Word) : signedOf v = v.toInt := by
  rw [BitVec.toInt_eq_toNat_cond, signedOf]
  by_cases h : v.toNat < 0x8000
  · rw [if_pos h, if_pos (by omega)]
  · rw [if_neg h, if_neg (by omega)]; rfl

theorem truncNat_toNat (n : Nat) : (truncNat n).toNat = n % 65536 := BitVec.toNat_ofNat ..

theorem addResult_eq (b a : Word) : addResult b a = b + a :=
  BitVec.eq_of_toNat_eq (by simp [addResult, truncNat])

theorem mulResult_eq (b a : Word) : mulResult b a = b * a :=
  BitVec.eq_of_toNat_eq (by simp [mulResult, truncNat])

theorem adxResult_eq (b a ex : Word) : adxResult b a ex = b + a + ex :=
  BitVec.eq_of_toNat_eq (by simp [adxResult, truncNat])

theorem ofInt_toNat_sub (b a : Word) : BitVec.ofInt 16 ((b.toNat : Int) - a.toNat) = b - a := by
  rw [sub_eq_add_neg, BitVec.ofInt_add, BitVec.ofInt_neg]
  simp [sub_eq_add_neg]

theorem subResult_eq (b a : Word) : subResult b a = b - a := by
  simp [subResult, trunc16, ofInt_toNat_sub]

theorem sbxResult_eq (b a ex : Word) : sbxResult b a ex = b - a + ex := by
  simp [sbxResult, sbxSum, trunc16, BitVec.ofInt_add, ofInt_toNat_sub]

theorem mliResult_eq (b a : Word) : mliResult b a = b * a := by
  simp [mliResult, trunc16, BitVec.ofInt_mul]

end Sys2Proof.Machine
end

