-- ==== Sys2Proof/Laws/PerInstr.lean ====
section
/-! SUPPORT. Statements about every instruction as syntax, one lemma per constructor. -/

namespace Sys2Proof.Laws.Row

/-- The fixed bits of the instruction's row in spec/opcode_table.json: how many low bits are fixed, and their value. -/
def fixedBits : Instr → Nat × Nat
  | .set _ _ => (5, 0x0001)
  | .add _ _ => (5, 0x0002)
  | .sub _ _ => (5, 0x0003)
  | .mul _ _ => (5, 0x0004)
  | .mli _ _ => (5, 0x0005)
  | .div _ _ => (5, 0x0006)
  | .dvi _ _ => (5, 0x0007)
  | .mod _ _ => (5, 0x0008)
  | .and _ _ => (5, 0x0009)
  | .bor _ _ => (5, 0x000A)
  | .xor _ _ => (5, 0x000B)
  | .shr _ _ => (5, 0x000C)
  | .asr _ _ => (5, 0x000D)
  | .shl _ _ => (5, 0x000E)
  | .sti _ _ => (5, 0x000F)
  | .ifb _ _ => (5, 0x0010)
  | .ifc _ _ => (5, 0x0011)
  | .ife _ _ => (5, 0x0012)
  | .ifn _ _ => (5, 0x0013)
  | .ifg _ _ => (5, 0x0014)
  | .ifa _ _ => (5, 0x0015)
  | .ifl _ _ => (5, 0x0016)
  | .ifu _ _ => (5, 0x0017)
  | .adx _ _ => (5, 0x001A)
  | .sbx _ _ => (5, 0x001B)
  | .jsr _ => (10, 0x0020)
  | .hcf _ => (10, 0x00E0)
  | .int _ => (10, 0x0100)
  | .iag _ => (10, 0x0120)
  | .ias _ => (10, 0x0140)
  | .hwn _ => (10, 0x0200)
  | .hwq _ => (10, 0x0220)
  | .hwi _ => (10, 0x0240)

/-- Whatever its operands, the instruction's word has the fixed bits of its row (30 R98, R99). -/
def Statement (i : Instr) : Prop := (encode i).toNat % 2 ^ (fixedBits i).1 = (fixedBits i).2

theorem low5_packWord (fa : BitVec 6) (fb fo : BitVec 5) : (packWord fa fb fo).toNat % 2 ^ 5 = fo.toNat := by
  have h := congrArg BitVec.toNat (fieldO_packWord fa fb fo)
  simpa [fieldO, BitVec.extractLsb'_toNat] using h

theorem low10_packWord (fa : BitVec 6) (fb fo : BitVec 5) :
    (packWord fa fb fo).toNat % 2 ^ 10 = fb.toNat * 32 + fo.toNat := by
  have h := congrArg BitVec.toNat (fieldB_packWord fa fb fo)
  have h' := low5_packWord fa fb fo
  simp only [fieldB, BitVec.extractLsb'_toNat, Nat.shiftRight_eq_div_pow] at h
  omega

theorem set (b a : Operand) : Statement (.set b a) := low5_packWord _ _ _
theorem add (b a : Operand) : Statement (.add b a) := low5_packWord _ _ _
theorem sub (b a : Operand) : Statement (.sub b a) := low5_packWord _ _ _
theorem mul (b a : Operand) : Statement (.mul b a) := low5_packWord _ _ _
theorem mli (b a : Operand) : Statement (.mli b a) := low5_packWord _ _ _
theorem div (b a : Operand) : Statement (.div b a) := low5_packWord _ _ _
theorem dvi (b a : Operand) : Statement (.dvi b a) := low5_packWord _ _ _
theorem mod (b a : Operand) : Statement (.mod b a) := low5_packWord _ _ _
theorem and (b a : Operand) : Statement (.and b a) := low5_packWord _ _ _
theorem bor (b a : Operand) : Statement (.bor b a) := low5_packWord _ _ _
theorem xor (b a : Operand) : Statement (.xor b a) := low5_packWord _ _ _
theorem shr (b a : Operand) : Statement (.shr b a) := low5_packWord _ _ _
theorem asr (b a : Operand) : Statement (.asr b a) := low5_packWord _ _ _
theorem shl (b a : Operand) : Statement (.shl b a) := low5_packWord _ _ _
theorem sti (b a : Operand) : Statement (.sti b a) := low5_packWord _ _ _
theorem ifb (b a : Operand) : Statement (.ifb b a) := low5_packWord _ _ _
theorem ifc (b a : Operand) : Statement (.ifc b a) := low5_packWord _ _ _
theorem ife (b a : Operand) : Statement (.ife b a) := low5_packWord _ _ _
theorem ifn (b a : Operand) : Statement (.ifn b a) := low5_packWord _ _ _
theorem ifg (b a : Operand) : Statement (.ifg b a) := low5_packWord _ _ _
theorem ifa (b a : Operand) : Statement (.ifa b a) := low5_packWord _ _ _
theorem ifl (b a : Operand) : Statement (.ifl b a) := low5_packWord _ _ _
theorem ifu (b a : Operand) : Statement (.ifu b a) := low5_packWord _ _ _
theorem adx (b a : Operand) : Statement (.adx b a) := low5_packWord _ _ _
theorem sbx (b a : Operand) : Statement (.sbx b a) := low5_packWord _ _ _
theorem jsr (a : Operand) : Statement (.jsr a) := low10_packWord _ _ _
theorem hcf (a : Operand) : Statement (.hcf a) := low10_packWord _ _ _
theorem int (a : Operand) : Statement (.int a) := low10_packWord _ _ _
theorem iag (a : Operand) : Statement (.iag a) := low10_packWord _ _ _
theorem ias (a : Operand) : Statement (.ias a) := low10_packWord _ _ _
theorem hwn (a : Operand) : Statement (.hwn a) := low10_packWord _ _ _
theorem hwq (a : Operand) : Statement (.hwq a) := low10_packWord _ _ _
theorem hwi (a : Operand) : Statement (.hwi a) := low10_packWord _ _ _

end Sys2Proof.Laws.Row
end

