-- ==== Sys2Proof/Tests/Slice0.lean ====
section
/-! SUPPORT. Tests whose expected results are the spec's own vectors (spec 95, each named by its number there), and the
witnesses that the hypotheses of the statements can be met. -/

namespace Sys2Proof.Tests

open Sys2Proof Sys2Proof.Machine Sys2Proof.Claims

/-! ### Well-formedness -/

/-- A short literal has no encoding in position b (30 R93). -/
theorem test_wf_refuses_short_b : (Instr.set (.short 3) (.reg .a)).wf = false := by decide

/-- POP has no encoding in position b (30 R94). -/
theorem test_wf_refuses_pop_b : (Instr.add .pop (.reg .a)).wf = false := by decide

/-- PUSH has no encoding in position a (30 R94). -/
theorem test_wf_refuses_push_a : (Instr.set (.reg .a) .push).wf = false := by decide

/-- PUSH has no encoding in position a of a special instruction either (30 R94). -/
theorem test_wf_refuses_push_special : (Instr.jsr .push).wf = false := by decide

/-- The other operands are legal in both positions (30 R101). -/
theorem test_wf_accepts_literal_b : (Instr.set .nextLiteral .pop).wf = true := by decide

/-! ### Decoding: words of spec 95 section 2, one for every constructor -/

/-- 95 A1, A6, L12, 2.2, A12 to A24. -/
theorem test_decode_arith :
    [0x7C01, 0x8802, 0x8B83, 0x8004, 0x8C05, 0x9006, 0x8C07, 0x9008].map (decodeTableWord 16) =
      [some (.set (.reg .a) .nextLiteral), some (.add (.reg .a) (.short 2)), some (.sub .pc (.short 2)),
       some (.mul (.reg .a) (.short 0)), some (.mli (.reg .a) (.short 3)), some (.div (.reg .a) (.short 4)),
       some (.dvi (.reg .a) (.short 3)), some (.mod (.reg .a) (.short 4))] := by decide

/-- 95 A26, A27, A30. -/
theorem test_decode_extended :
    [0x041A, 0x881B, 0x3DCF].map (decodeTableWord 16) =
      [some (.adx (.reg .a) (.reg .b)), some (.sbx (.reg .a) (.short 2)),
       some (.sti (.indirect .i) (.indirect .j))] := by decide

/-- 95 L1, L2, L3, L4, L8, L12. -/
theorem test_decode_logic :
    [0x7C09, 0x7C0A, 0x800B, 0x880C, 0x880D, 0x946E].map (decodeTableWord 16) =
      [some (.and (.reg .a) .nextLiteral), some (.bor (.reg .a) .nextLiteral), some (.xor (.reg .a) (.short 0)),
       some (.shr (.reg .a) (.short 2)), some (.asr (.reg .a) (.short 2)), some (.shl (.reg .x) (.short 5))] := by
  decide

/-- 95 2.2 and C-1 to C-12. -/
theorem test_decode_conditional :
    [0x9410, 0x8C11, 0x43D2, 0xC413, 0x8814, 0x8815, 0x8016, 0x8417].map (decodeTableWord 16) =
      [some (.ifb (.reg .a) (.short 5)), some (.ifc (.reg .a) (.short 3)), some (.ife .nextIndirect (.indexed .a)),
       some (.ifn (.reg .a) (.short 17)), some (.ifg (.reg .a) (.short 2)), some (.ifa (.reg .a) (.short 2)),
       some (.ifl (.reg .a) (.short 0)), some (.ifu (.reg .a) (.short 1))] := by decide

/-- 95 2.2. -/
theorem test_decode_special :
    [0x7C20, 0x84E0, 0x9100, 0x0120, 0x7D40, 0x0200, 0x8620, 0x8640].map (decodeTableWord 16) =
      [some (.jsr .nextLiteral), some (.hcf (.short 1)), some (.int (.short 4)), some (.iag (.reg .a)),
       some (.ias .nextLiteral), some (.hwn (.reg .a)), some (.hwq (.short 1)), some (.hwi (.short 1))] := by decide

/-- 95 2.2, A5, A3, B2: operands over the stack. -/
theorem test_decode_stack :
    [0x6381, 0x9B01, 0x6801, 0x6301, 0x7001].map (decodeTableWord 16) =
      [some (.set .pc .pop), some (.set .push (.short 6)), some (.set (.reg .a) .pick), some (.set .push .pop),
       some (.set (.reg .a) .pc)] := by decide

/-- 95 2.2: the illegal words, each with the form and code its error records. -/
theorem test_decode_illegal :
    decode 0x0000 = .error ⟨.special, 0x00⟩ ∧ decode 0x0018 = .error ⟨.basic, 0x18⟩ ∧
      decode 0x0160 = .error ⟨.special, 0x0b⟩ ∧ decode 0x7C1E = .error ⟨.basic, 0x1e⟩ := by
  refine ⟨?_, ?_, ?_, ?_⟩ <;> rfl

/-- 95 2.2: the lengths. -/
theorem test_lengths :
    [0x7FC1, 0x8B83, 0x7C20, 0x84E0, 0x0120, 0x0000, 0x7C1E, 0x43D2].map lengthOf = [3, 1, 2, 1, 1, 1, 2, 3] := by
  decide

/-- 30 R102: the IFx class at its ends; a special word is never in it. -/
theorem test_if_words :
    [0x0010, 0xFFF7, 0x000F, 0x0018, 0x0200].map isIfWord = [true, true, false, false, false] := by decide

/-- 95 1.4: the encoder writes the spec's words. -/
theorem test_encode :
    encode (.set .nextIndirect (.reg .a)) = 0x03C1 ∧ encode (.set .nextIndirect (.short 2)) = 0x8BC1 ∧
      encode (.sub .pc (.short 2)) = 0x8B83 := by decide

/-! ### One step on a small state -/

/-- The reset state with `words` at `pc`, and PC there. -/
def codeAt (pc : Word) (words : List Word) : State :=
  { State.reset with backing := loadWords [] pc.toNat words, regs := { RegFile.reset with pc := pc } }

/-- The reset state with `words` at 0. -/
def code (words : List Word) : State := codeAt 0 words

/-- The state with a word in the backing store. -/
def poke (s : State) (ad v : Word) : State := { s with backing := WordMem.write s.backing ad.toNat v }

/-- The state with one protected address. -/
def protectOne (s : State) (ad : Nat) : State := { s with prot := [{ start := ad, length := 1 }] }

/-- The state with the video device at its base. -/
def withVideo (s : State) : State := { s with mmap := [{ start := 0x8000, length := 0x400, dev := .freshVideo }] }

/-- What one step leaves in these registers, with the latched error and the cycles it took. -/
def result (s : State) (rs : List Reg) : Option (List Word × Option Error × Nat) :=
  match step s with
  | .next t => some (rs.map t.get, t.lastError, t.cycleCount)
  | _ => none

/-- What one step leaves at these addresses. -/
def loads (s : State) (ads : List Word) : Option (List Word) :=
  match step s with
  | .next t => some (ads.map t.loadValue)
  | _ => none

/-- 95 A1. -/
theorem test_set_literal : result (code [0x7C01, 0x0030]) [.a, .pc] = some ([0x30, 2], none, 2) := by decide

/-- 95 A4: POP then PUSH into the same slot. -/
theorem test_set_push_pop :
    result (poke ((code [0x6301]).setReg .sp 0xFFFE) 0xFFFE 3) [.sp] = some ([0xFFFE], none, 1) := by decide

/-- 95 A7: the write-back to EX replaces the carry. -/
theorem test_add_to_ex : result ((code [0x8BA2]).setReg .ex 0xFFFF) [.ex] = some ([0], none, 2) := by decide

/-- 95 A8. -/
theorem test_add_to_pc : result (codeAt 0x10 [0x8B82]) [.pc] = some ([0x12], none, 2) := by decide

/-- 95 A9. -/
theorem test_sub_borrow : result (code [0x8803]) [.a, .ex] = some ([0xFFFF, 0xFFFF], none, 2) := by decide

/-- 95 A12. -/
theorem test_mul : result ((code [0x8004]).setReg .a 0xFFFF) [.a, .ex] = some ([1, 0xFFFE], none, 2) := by decide

/-- 95 A14. -/
theorem test_mli :
    result ((code [0x7C05, 0x8000]).setReg .a 0x8000) [.a, .ex] = some ([0, 0x4000], none, 3) := by decide

/-- 95 A16. -/
theorem test_div : result ((code [0x9006]).setReg .a 7) [.a, .ex] = some ([2, 0x5555], none, 3) := by decide

/-- 95 A18. -/
theorem test_div_by_zero :
    result (((code [0x8406]).setReg .a 7).setReg .ex 0x1234) [.a, .ex] = some ([0, 0], none, 3) := by decide

/-- 95 A19. -/
theorem test_dvi : result ((code [0x8C07]).setReg .a 0xFFF9) [.a, .ex] = some ([0xFFFD, 0x8000], none, 3) := by decide

/-- 95 A20. -/
theorem test_dvi_wraps : result ((code [0x8007]).setReg .a 0x8000) [.a, .ex] = some ([0x8000, 0], none, 3) := by decide

/-- 95 A24. -/
theorem test_mod : result ((code [0xC408]).setReg .a 0xFFFF) [.a] = some ([0xF], none, 3) := by decide

/-- 95 A23, 90 C3: EX stays. -/
theorem test_mod_by_zero :
    result (((code [0x8408]).setReg .a 7).setReg .ex 0x1234) [.a, .ex] = some ([0, 0x1234], none, 3) := by decide

/-- 95 A26. -/
theorem test_adx :
    result ((((code [0x041A]).setReg .a 0xFFFF).setReg .b 0xFFFF).setReg .ex 0xFFFF) [.a, .ex] =
      some ([0xFFFD, 1], none, 3) := by decide

/-- 95 A27. -/
theorem test_sbx_underflow : result (code [0x881B]) [.a, .ex] = some ([0xFFFF, 0xFFFF], none, 3) := by decide

/-- 95 A28. -/
theorem test_sbx_overflow :
    result (((code [0x841B]).setReg .a 5).setReg .ex 0xFFFF) [.a, .ex] = some ([4, 1], none, 3) := by decide

/-- 95 A31: the destination is I itself. -/
theorem test_sti_to_i : result (code [0x98CF]) [.i, .j] = some ([6, 1], none, 2) := by decide

/-- 95 E3: a refused store leaves I and J. -/
theorem test_sti_refused :
    result (protectOne ((code [0x89CF]).setReg .i 0x2000) 0x2000) [.i, .j] =
      some ([0x2000, 0], some (.protection 0x2000), 2) := by decide

/-- 95 L1. -/
theorem test_and : result ((code [0x7C09, 0xFF]).setReg .a 0x0F0F) [.a] = some ([0xF], none, 2) := by decide

/-- 95 L2. -/
theorem test_bor : result ((code [0x7C0A, 0xF0]).setReg .a 0x0F00) [.a] = some ([0x0FF0], none, 2) := by decide

/-- 95 L3. -/
theorem test_xor : result ((code [0x800B]).setReg .a 0x0FF0) [.a] = some ([0xF00F], none, 1) := by decide

/-- 95 L6: a shift by 20. -/
theorem test_shr_far : result ((code [0xD40C]).setReg .a 0x8001) [.a, .ex] = some ([0, 0x0800], none, 2) := by decide

/-- 95 L7: the amount is the whole of a. -/
theorem test_shr_32 : result ((code [0x7C0C, 0x20]).setReg .a 0x8001) [.a, .ex] = some ([0, 0], none, 3) := by decide

/-- 95 L8. -/
theorem test_asr : result ((code [0x880D]).setReg .a 0x8001) [.a, .ex] = some ([0xC000, 0x8000], none, 2) := by decide

/-- 95 L10. -/
theorem test_asr_32 :
    result ((code [0x7C0D, 0x20]).setReg .a 0x8001) [.a, .ex] = some ([0xFFFF, 0xFFFF], none, 3) := by decide

/-- 95 L13. -/
theorem test_shl : result ((code [0x880E]).setReg .a 0x8001) [.a, .ex] = some ([2, 1], none, 2) := by decide

/-- 95 L14. -/
theorem test_shl_17 : result ((code [0xC80E]).setReg .a 0x8001) [.a, .ex] = some ([0, 2], none, 2) := by decide

/-- 95 C-1. -/
theorem test_ifb : result ((code [0x9410]).setReg .a 5) [.pc] = some ([1], none, 2) := by decide

/-- 95 C-2. -/
theorem test_ifc : result ((code [0x8C11]).setReg .a 5) [.pc] = some ([1], none, 2) := by decide

/-- 95 C-9: the chain passes a conditional, and the skipped PUSH and POP change nothing. -/
theorem test_ife_chain : result (code [0x8812, 0x8712, 0x6001, 0x6C21]) [.pc, .sp] = some ([3, 0], none, 4) := by decide

/-- 95 C-10: the scan passes an illegal word. -/
theorem test_ife_skips_illegal : result (code [0x8812, 0x0018]) [.pc] = some ([2], none, 3) := by decide

/-- 95 C-12, with the two-word SET of program P1 after it. -/
theorem test_ifn : result ((code [0xC413, 0x7F81]).setReg .a 0x10) [.pc] = some ([3], none, 3) := by decide

/-- 95 C-3. -/
theorem test_ifg : result ((code [0x8814]).setReg .a 0xFFFF) [.pc] = some ([1], none, 2) := by decide

/-- 95 C-4: signed, so the illegal word 0000 that follows is skipped. -/
theorem test_ifa : result ((code [0x8815]).setReg .a 0xFFFF) [.pc] = some ([2], none, 3) := by decide

/-- 95 C-5. -/
theorem test_ifl : result (code [0x8016]) [.pc] = some ([1], none, 2) := by decide

/-- 95 C-6. -/
theorem test_ifu : result ((code [0x8417]).setReg .a 0x8000) [.pc] = some ([1], none, 2) := by decide

/-- 95 S-1. -/
theorem test_jsr :
    result (codeAt 0x13 [0x7C20, 0x17]) [.sp, .pc] = some ([0xFFFF, 0x17], none, 4) ∧
      loads (codeAt 0x13 [0x7C20, 0x17]) [0xFFFF] = some [0x15] := by decide

/-- 95 S-2. -/
theorem test_jsr_refused :
    result (protectOne (codeAt 0x13 [0x7C20, 0x17]) 0xFFFF) [.sp, .pc] =
      some ([0xFFFF, 0x15], some (.protection 0xFFFF), 4) := by decide

/-- 95 S-3. -/
theorem test_int :
    result (((codeAt 0x10 [0x9100]).setReg .ia 0x100).setReg .a 5) [.sp, .a, .pc] =
        some ([0xFFFE, 3, 0x100], none, 4) ∧
      loads (((codeAt 0x10 [0x9100]).setReg .ia 0x100).setReg .a 5) [0xFFFF, 0xFFFE] = some [0x11, 5] := by decide

/-- 95 S-4: the second push is refused. -/
theorem test_int_refused :
    result (protectOne (((codeAt 0x10 [0x9100]).setReg .ia 0x100).setReg .a 5) 0xFFFE) [.sp, .a, .pc] =
      some ([0xFFFE, 5, 0x11], some (.protection 0xFFFE), 4) := by decide

/-- 95 S-6. -/
theorem test_iag : result ((code [0x0120]).setReg .ia 0x1234) [.a] = some ([0x1234], none, 1) := by decide

/-- 95 S-7. -/
theorem test_ias : result (code [0x7D40, 0x100]) [.ia, .pc] = some ([0x100, 2], none, 2) := by decide

/-- 95 S-8. -/
theorem test_hwn : result ((code [0x0200]).setReg .a 7) [.a] = some ([0], none, 2) := by decide

/-- 95 S-9. -/
theorem test_hwq :
    result { code [0x8620] with regs := { RegFile.reset with a := 1, b := 1, c := 1, x := 1, y := 1, z := 1 } }
      [.a, .b, .c, .x, .y, .z] = some ([0, 0, 0, 0, 0, 1], none, 4) := by decide

/-- 95 S-10. -/
theorem test_hwi : result (code [0x8640]) [.a, .sp, .pc] = some ([0, 0, 1], none, 4) := by decide

/-- 95 S-11. -/
theorem test_hcf : result (code [0x84E0]) [.pc] = some ([1], some .halt, 9) := by decide

/-- 95 S-12. -/
theorem test_hcf_long : result (code [0x7CE0, 0x100]) [.pc] = some ([2], some .halt, 10) := by decide

/-! ### Operands, errors, memory and devices -/

/-- 95 M14: the address of an indexed operand wraps. -/
theorem test_indexed_wraps :
    result (poke ((code [0x4401, 0x10]).setReg .b 0xFFF5) 5 0x77) [.a] = some ([0x77], none, 2) := by decide

/-- 95 A2: PC reads as the address after the word. -/
theorem test_pc_operand : result (codeAt 0x10 [0x7001]) [.a] = some ([0x11], none, 1) := by decide

/-- 95 A5. -/
theorem test_pick : result (poke ((code [0x6801, 1]).setReg .sp 0xFFFE) 0xFFFF 0x42) [.a, .sp] =
    some ([0x42, 0xFFFE], none, 2) := by decide

/-- 95 E1, E2: an illegal opcode takes one cycle and leaves PC past the word. -/
theorem test_illegal : result (code [0x0160]) [.pc] = some ([1], some (.opcode .special 0x0b), 1) := by decide

/-- 95 E5: a literal's write-back is discarded. -/
theorem test_literal_discards : result (protectOne (code [0x8BE1, 5]) 5) [.pc] = some ([2], none, 2) := by decide

/-- 95 E6: SP stays lowered. -/
theorem test_push_refused :
    result (protectOne (code [0x8B01]) 0xFFFF) [.sp] = some ([0xFFFF], some (.protection 0xFFFF), 1) := by decide

/-- 95 M1: the video device takes the store, past protection, and the backing store does not. -/
theorem test_video_store :
    (match step (protectOne (withVideo (code [0x8BC1, 0x8000])) 0x8000) with
      | .next t => some (t.mmap, WordMem.read t.backing 0x8000, t.lastError)
      | _ => none) = some ([{ start := 0x8000, length := 0x400, dev := .video [(0, 1)] }], 0, none) := by decide

/-- 95 M15: an instruction stores a word that a later fetch reads. -/
theorem test_self_modifying : loads (code [0x7FC1, 0x8B83, 3]) [3] = some [0x8B83] := by decide

/-- 95 K1, K3: a zero slot takes the event, a full ring takes nothing. -/
theorem test_keyboard_poll :
    Device.freshKeyboard.poll (some (.down (.rune 0x61))) =
        .keyboard ((Vector.replicate 16 0).set 0 0x61) 1 [.rune 0x61] ∧
      (Device.keyboard (Vector.replicate 16 5) 3 []).poll (some (.down (.rune 0x61))) =
        .keyboard (Vector.replicate 16 5) 3 [] := by decide

/-- 60 R317: the key up of an accepted arrow is its code with 0x100, and one whose key down was not accepted is not sent. -/
theorem test_key_up :
    (Device.keyboard (Vector.replicate 16 0) 1 [.arrow 3]).poll (some (.up (.arrow 3))) =
        .keyboard ((Vector.replicate 16 0).set 1 0x183) 2 [] ∧
      Device.freshKeyboard.poll (some (.up (.arrow 3))) = .freshKeyboard := by decide

/-- 95 M3, M4. -/
theorem test_protect_merge_and_split :
    protectAdd { start := 0x20, length := 0x10 } [{ start := 0x10, length := 0x10 }] =
        [{ start := 0x10, length := 0x20 }] ∧
      protectRemove { start := 0x18, length := 4 } [{ start := 0x10, length := 0x20 }] =
        [{ start := 0x10, length := 8 }, { start := 0x1C, length := 0x14 }] := by decide

/-- 95 M5, M7, M9, M10, M12. -/
theorem test_host_port_errors :
    memProtect 0xFFF0 0x11 true State.reset = .error .outOfBounds ∧
      mapRegion 0x83FF 1 .freshVideo (withVideo State.reset) = .error .regionConflict ∧
      unmapRegion 0x8000 0x200 (withVideo State.reset) = .error .noRegionMatches ∧
      loadProgram [1, 2, 3] 0xFFFE State.reset = .error .outOfBounds := by
  refine ⟨?_, ?_, ?_, ?_⟩ <;> rfl

/-- 95 S2: the driver's cycles, one by one, end where two steps do. -/
theorem test_cycles_of_s2 :
    (match driverRun 4 (code [0x7C01, 0x30, 0x03C1, 0x1000]) with
      | .next t => some (t.get .a, t.loadValue 0x1000, t.get .pc)
      | _ => none) = some (0x30, 0x30, 4) := by decide

/-- 60 R310, R311: a blinking A in highlighted red on blue at the last cell, and a green border. -/
theorem test_video_map :
    repaintOf 0x17F 0xC1C1 = .cell 11 31
        { foreground := { blue := false, green := false, red := true, highlight := true },
          background := { blue := true, green := false, red := false, highlight := false },
          blink := true, character := 0x41 } ∧
      repaintOf 0x180 0xC1C1 = .font ∧
      repaintOf 0x280 0xFFF2 = .border { blue := false, green := true, red := false, highlight := false } ∧
      repaintOf 0x281 0xFFF2 = .noUse := by decide

/-- 40 R132: the step tag reads FETCH where HCF has raised (log entry 5). -/
theorem test_phase_at_raise :
    (match step (code [0x84E0]) with
      | .next t => some (t.scratch.step, t.lastError)
      | _ => none) = some (.fetch, some .halt) := by decide

/-- 70 R353: big-endian by default, the odd byte dropped. -/
theorem test_image :
    wordsOfImage false [0x7C, 0x01, 0x00] = [0x7C01] ∧ wordsOfImage true [0x01, 0x7C] = [0x7C01] := by decide

/-- The word that `withFetchWord` places is the one the next step runs: here HWI 0. -/
theorem test_withFetchWord : result (State.reset.withFetchWord 16 0x8640) [.pc] = some ([1], none, 4) := by decide

/-! ### Witnesses: the hypotheses of the statements are met

A statement's witness is `witness_<its name>`. Clauses that all statements of one shape share are met by one shared
proposition, applied to each instruction. -/

/-- What `WritesB mk code cost` assumes, clause by clause: a well-formed instruction; a write-back accepted by a register,
by the highest memory word and by no target at all; and one refused at the highest word. -/
abbrev WritesBMet (mk : Operand → Operand → Instr) (cost : Nat) : Prop :=
  (mk .push (.short 31)).wf = true ∧
  (let r := basicAtCompletion cost (.reg .j) (.short 0) State.reset;
    r.scratch.addrB = .register .j ∧ r.accepts r.scratch.addrB = true) ∧
  (let r := basicAtCompletion cost .push (.short 31) State.reset;
    r.scratch.addrB = .memory 0xFFFF ∧ r.accepts r.scratch.addrB = true) ∧
  (let r := basicAtCompletion cost .nextLiteral .pop State.reset;
    r.scratch.addrB = .none ∧ r.accepts r.scratch.addrB = true) ∧
  (let r := basicAtCompletion cost .push (.short 31) (protectOne State.reset 0xFFFF);
    r.scratch.addrB = .memory 0xFFFF ∧ r.storeRefused 0xFFFF = true)

theorem witness_SetMovesSourceToDestination : WritesBMet .set 1 := by decide
theorem witness_AddWritesSumAndCarry : WritesBMet .add 2 := by decide
theorem witness_SubWritesDifferenceAndBorrow : WritesBMet .sub 2 := by decide
theorem witness_MulWritesProductHalves : WritesBMet .mul 2 := by decide
theorem witness_MliWritesSignedProductHalves : WritesBMet .mli 2 := by decide
theorem witness_DivWritesQuotientAndFraction : WritesBMet .div 3 := by decide
theorem witness_DviWritesSignedQuotientAndFraction : WritesBMet .dvi 3 := by decide
theorem witness_ModWritesRemainderKeepsEx : WritesBMet .mod 3 := by decide
theorem witness_AdxAddsExWithCarry : WritesBMet .adx 3 := by decide
theorem witness_SbxSubtractsAddingEx : WritesBMet .sbx 3 := by decide
theorem witness_StiStoresThenIncrementsIJ : WritesBMet .sti 2 := by decide
theorem witness_ShrShiftsRightIntoEx : WritesBMet .shr 2 := by decide
theorem witness_AsrShiftsSignedRightIntoEx : WritesBMet .asr 2 := by decide
theorem witness_ShlShiftsLeftIntoEx : WritesBMet .shl 2 := by decide
theorem witness_AndBorXorWriteBitwiseResultKeepEx :
    WritesBMet .and 1 ∧ WritesBMet .bor 1 ∧ WritesBMet .xor 1 := by decide

/-- The first `n` words of memory are `IFE A, A`, an IFx word; with all of them, no chain ends (95 C-11). -/
def conditionalWords (n : Nat) (regs : RegFile) : State :=
  { State.reset with backing := (List.range n).map (fun k => (k, 0x0012)), regs := regs }

theorem read_table (n : Nat) (w : Word) (q : Nat) (h : q < n) :
    WordMem.read ((List.range n).map (fun k => (k, w))) q = w := by
  have key : ∀ l : List Nat, q ∈ l → WordMem.read (l.map (fun k => (k, w))) q = w := by
    intro l
    induction l with
    | nil => intro h; cases h
    | cons k l ih =>
      intro hq
      simp only [List.map_cons, WordMem.read]
      split
      · rfl
      · next hk => exact ih (by simpa [Ne.symm hk] using hq)
  exact key _ (List.mem_range.mpr h)

theorem scanChain_none (fuel : Nat) (p : Word) (k : Nat) (s : State) (hm : s.mmap = [])
    (h : ∀ ad, isIfWord (s.loadValue ad) = true) : scanChain fuel p k s = none := by
  have hload : ∀ ad, s.afterLoad ad = s := fun ad => s.afterLoad_of_noExternal ad (by simp [State.noExternal, hm])
  induction fuel generalizing p k with
  | zero => rfl
  | succ n ih => simp only [scanChain, h, hload, if_true]; exact ih _ _

/-- Where every word is an IFx word no chain ends (95 C-11, 43 R252). -/
theorem conditionalWords_stuck (n : Nat) (hn : 0x10000 ≤ n) (regs : RegFile) :
    let r := basicAtCompletion 2 (.reg .a) (.reg .b) (conditionalWords n regs)
    scanChain 0x10000 (r.get .pc) 0 r = none := by
  intro r
  have hk : (conditionalWords n regs).KeepsMemory r :=
    basicAtCompletion_keepsMemory 2 (.reg .a) (.reg .b) (conditionalWords n regs)
  have hm : r.mmap = [] := List.map_eq_nil_iff.mp hk.bounds
  refine scanChain_none _ _ _ r hm (fun ad => ?_)
  have hl : r.loadValue ad = (conditionalWords n regs).loadValue ad := (hk.quiet ad rfl).2
  have hw : (conditionalWords n regs).loadValue ad = 0x0012 :=
    read_table n 0x0012 ad.toNat (lt_of_lt_of_le ad.isLt hn)
  rw [hl, hw]; decide

/-- What `Conditional mk code holds` assumes, clause by clause: a well-formed instruction; a true predicate; a false one
with a chain that ends. -/
def ConditionalMet (mk : Operand → Operand → Instr) (holds : Word → Word → Prop) : Prop :=
  (mk (.reg .a) (.reg .b)).wf = true ∧
  (∃ s, let r := basicAtCompletion 2 (.reg .a) (.reg .b) s; holds r.scratch.vb r.scratch.va) ∧
  (∃ s chain, let r := basicAtCompletion 2 (.reg .a) (.reg .b) s;
    ¬ holds r.scratch.vb r.scratch.va ∧ scanChain 0x10000 (r.get .pc) 0 r = some chain)

theorem conditionalMet (mk : Operand → Operand → Instr) (holds : Word → Word → Prop) (tb ta fb fa : Word)
    (hwf : (mk (.reg .a) (.reg .b)).wf = true) (ht : holds tb ta) (hf : ¬ holds fb fa) : ConditionalMet mk holds :=
  ⟨hwf, ⟨{ State.reset with regs := { RegFile.reset with a := tb, b := ta } }, ht⟩,
    ⟨{ State.reset with regs := { RegFile.reset with a := fb, b := fa } }, _, hf, rfl⟩⟩

theorem witness_IfbSkipsUnlessBitsSet : ConditionalMet .ifb (fun b a => b &&& a ≠ 0) :=
  conditionalMet _ _ 0x8000 0xFFFF 0x8000 0x7FFF rfl (by decide) (by decide)
theorem witness_IfcSkipsUnlessBitsClear : ConditionalMet .ifc (fun b a => b &&& a = 0) :=
  conditionalMet _ _ 0x8000 0x7FFF 0x8000 0xFFFF rfl (by decide) (by decide)
theorem witness_IfeSkipsUnlessEqual : ConditionalMet .ife (fun b a => b = a) :=
  conditionalMet _ _ 0xFFFF 0xFFFF 0xFFFF 0 rfl (by decide) (by decide)
theorem witness_IfnSkipsUnlessDifferent : ConditionalMet .ifn (fun b a => b ≠ a) :=
  conditionalMet _ _ 0xFFFF 0 0xFFFF 0xFFFF rfl (by decide) (by decide)
theorem witness_IfgSkipsUnlessGreaterUnsigned : ConditionalMet .ifg (fun b a => a.toNat < b.toNat) :=
  conditionalMet _ _ 0xFFFF 0xFFFE 0xFFFF 0xFFFF rfl (by decide) (by decide)
theorem witness_IfaSkipsUnlessAboveSigned : ConditionalMet .ifa (fun b a => a.toInt < b.toInt) :=
  conditionalMet _ _ 0x7FFF 0x8000 0x8000 0x7FFF rfl (by decide) (by decide)
theorem witness_IflSkipsUnlessLessUnsigned : ConditionalMet .ifl (fun b a => b.toNat < a.toNat) :=
  conditionalMet _ _ 0xFFFE 0xFFFF 0xFFFF 0xFFFF rfl (by decide) (by decide)
theorem witness_IfuSkipsUnlessUnderSigned : ConditionalMet .ifu (fun b a => b.toInt < a.toInt) :=
  conditionalMet _ _ 0x8000 0x7FFF 0x7FFF 0x8000 rfl (by decide) (by decide)

theorem witness_JsrPushesPcAndJumps :
    (Instr.jsr .pop).wf = true ∧
    (let r := specialAtCompletion 3 .nextLiteral State.reset;
      r.get .sp - 1 = 0xFFFF ∧ r.storeRefused 0xFFFF = false) ∧
    (let r := specialAtCompletion 3 .nextLiteral (protectOne State.reset 0xFFFF);
      r.get .sp - 1 = 0xFFFF ∧ r.storeRefused 0xFFFF = true) := by decide

theorem witness_HcfLatchesHaltError : (Instr.hcf (.short 31)).wf = true := by decide

theorem witness_IntPushesPcAndAThenJumpsToIa :
    (Instr.int .pop).wf = true ∧
    (let r := specialAtCompletion 4 (.short 0) (State.reset.setReg .sp 1);
      r.get .sp - 1 = 0 ∧ r.get .sp - 2 = 0xFFFF ∧ r.storeRefused 0 = false ∧ r.storeRefused 0xFFFF = false) ∧
    (let r := specialAtCompletion 4 (.short 0) (protectOne (State.reset.setReg .sp 1) 0);
      r.get .sp - 1 = 0 ∧ r.storeRefused 0 = true) ∧
    (let r := specialAtCompletion 4 (.short 0) (protectOne (State.reset.setReg .sp 1) 0xFFFF);
      r.get .sp - 1 = 0 ∧ r.get .sp - 2 = 0xFFFF ∧ r.storeRefused 0 = false ∧ r.storeRefused 0xFFFF = true) := by
  decide

/-- What `WritesA mk code cost` assumes, clause by clause. -/
abbrev WritesAMet (mk : Operand → Instr) (cost : Nat) : Prop :=
  (mk .pop).wf = true ∧
  (let r := specialAtCompletion cost (.short 31) State.reset;
    r.scratch.addrA = .none ∧ r.accepts r.scratch.addrA = true) ∧
  (let r := specialAtCompletion cost .ex State.reset;
    r.scratch.addrA = .register .ex ∧ r.accepts r.scratch.addrA = true) ∧
  (let r := specialAtCompletion cost .pop (State.reset.setReg .sp 0xFFFF);
    r.scratch.addrA = .memory 0xFFFF ∧ r.accepts r.scratch.addrA = true) ∧
  (let r := specialAtCompletion cost .pop (protectOne (State.reset.setReg .sp 0xFFFF) 0xFFFF);
    r.scratch.addrA = .memory 0xFFFF ∧ r.storeRefused 0xFFFF = true)

theorem witness_IagWritesIaToOperand : WritesAMet .iag 1 := by decide
theorem witness_HwnWritesZeroToOperand : WritesAMet .hwn 2 := by decide
theorem witness_IasSetsIa : (Instr.ias .pop).wf = true := by decide
theorem witness_HwqClearsAToY : (Instr.hwq .nextLiteral).wf = true := by decide
theorem witness_HwiOnlyResolvesItsOperand : (Instr.hwi .nextIndirect).wf = true := by decide

/-- Each class range of the operand table, at its ends, in both positions. -/
theorem witness_OperandClassesResolveByTable :
    (∀ c ∈ [(0x00 : BitVec 6), 0x07, 0x08, 0x0f, 0x10, 0x17, 0x19, 0x1a, 0x1b, 0x1c, 0x1d, 0x1e, 0x1f],
      c.toNat < 0x20 ∧ c.toNat ≠ 0x18) ∧
    (∀ c ∈ [(0x00 : BitVec 5), 0x17, 0x19, 0x1f], c.toNat ≠ 0x18) ∧
    Reg.index .a = 0x00 ∧ (Reg.index .j).val + 0x10 = 0x17 ∧
    0x20 ≤ (0x20 : BitVec 6).toNat ∧ 0x20 ≤ (0x3f : BitVec 6).toNat := by decide

theorem witness_OperandsChangeOnlyPcAndSp :
    Reg.ex ≠ .pc ∧ Reg.ex ≠ .sp ∧ Operand.push.okB = true ∧ Operand.pop.okA = true := by decide

/-- The hypotheses of a basic instruction's frame, on ADD, on SET, which leaves EX, and on STI, whose store is refused. -/
theorem witness_BasicWritesLeaveTheRestUnchanged :
    (isConditional (.add .push (.reg .a)) = false ∧
      (∃ t, exec (.add .push (.reg .a)) State.reset = .next t) ∧
      (let r := basicAtCompletion 2 .push (.reg .a) State.reset;
        Reg.j ≠ .pc ∧ Reg.j ≠ .ex ∧ r.scratch.addrB ≠ .register .j ∧ r.scratch.addrB = .memory 0xFFFF)) ∧
    (leavesEx (.set (.reg .a) (.short 5)) = true ∧
      (∃ t, exec (.set (.reg .a) (.short 5)) State.reset = .next t) ∧
      (let r := basicAtCompletion 1 (.reg .a) (.short 5) State.reset;
        r.scratch.addrB ≠ .register .ex ∧ r.scratch.addrB ≠ .register .sp ∧ (Operand.short 5).movesSp = false)) ∧
    (isSti (.sti (.indirect .a) (.short 5)) = true ∧
      ∃ t, exec (.sti (.indirect .a) (.short 5)) (protectOne State.reset 0) = .next t) :=
  ⟨⟨by decide, ⟨_, rfl⟩, by decide⟩, ⟨by decide, ⟨_, rfl⟩, by decide⟩, by decide, ⟨_, rfl⟩⟩

/-- Both ways an IFx answers a next state: a true predicate and a skip. -/
theorem witness_ConditionalsLeaveTheRestUnchanged :
    isConditional (.ife (.reg .a) (.short 1)) = true ∧ (Instr.ife (.reg .a) (.short 1)).operands = (some (.reg .a), .short 1) ∧
      (∃ t, exec (.ife (.reg .a) (.short 1)) State.reset = .next t) ∧
      (∃ t, exec (.ife (.reg .a) (.short 2)) State.reset = .next t) ∧ Reg.sp ≠ .pc ∧ (Operand.reg .a).movesSp = false :=
  ⟨rfl, rfl, ⟨_, rfl⟩, ⟨_, rfl⟩, by decide, rfl⟩

theorem witness_SpecialsLeaveTheRestUnchanged :
    (Instr.int (.short 4)).operands = (none, .short 4) ∧ (∃ t, exec (.int (.short 4)) State.reset = .next t) ∧
      (∃ t, exec (.iag (.indirect .a)) (protectOne State.reset 0) = .next t) ∧
      (let r := specialAtCompletion 4 (.short 4) State.reset;
        ¬ specialWrites r (.int (.short 4)) .ex ∧ ¬ specialStores r (.int (.short 4)) 0xFFFD ∧
          State.reset.quietAt 0xFFFD = true) :=
  ⟨rfl, ⟨_, rfl⟩, ⟨_, rfl⟩, by simp [specialWrites], by
    simp only [specialStores, not_or]; decide, by decide⟩

theorem witness_DecodeOfEncodeIsTheInstruction :
    (Instr.ifu .nextLiteral .pop).wf = true ∧ (Instr.hwi (.short 31)).wf = true := by decide

theorem witness_EncodeOfDecodeIsTheWord :
    decode 0xFFFB = .ok (.sbx .nextLiteral (.short 31)) ∧ decode 0xFE40 = .ok (.hwi (.short 31)) := ⟨rfl, rfl⟩

/-- A word in each of the four clauses, at the ends of their ranges. -/
theorem witness_IllegalEncodingsAreExactlyTheListed :
    (∀ w ∈ [(0x0018 : Word), 0xFFFF], w.toNat % 0x20 ∈ [0x18, 0x19, 0x1c, 0x1d, 0x1e, 0x1f]) ∧
    (∀ w ∈ [(0x0000 : Word), 0x01E0], w.toNat % 0x20 = 0 ∧
      w.toNat / 0x20 % 0x20 ∈ [0x00, 0x02, 0x03, 0x04, 0x05, 0x06, 0x0b, 0x0c, 0x0d, 0x0e, 0x0f]) ∧
    (∀ w ∈ [(0x0260 : Word), 0xFFE0], w.toNat % 0x20 = 0 ∧ 0x13 ≤ w.toNat / 0x20 % 0x20) ∧
    (∀ w ∈ [(0x0001 : Word), 0x0017, 0x001A, 0xFFFB], w.toNat % 0x20 ≠ 0 ∧
      w.toNat % 0x20 ∉ [0x18, 0x19, 0x1c, 0x1d, 0x1e, 0x1f]) ∧
    (∀ w ∈ [(0x0020 : Word), 0xFE40], w.toNat % 0x20 = 0 ∧
      w.toNat / 0x20 % 0x20 ∈ [0x01, 0x07, 0x08, 0x09, 0x0a, 0x10, 0x11, 0x12]) := by
  refine ⟨?_, ?_, ?_, ?_, ?_⟩ <;> simp

theorem witness_LengthCountsTheWordsPcPasses :
    (decode 0x7FC1 = .ok (.set .nextIndirect .nextLiteral) ∧
      (Instr.set .nextIndirect .nextLiteral).operands = (some .nextIndirect, .nextLiteral)) ∧
    (decode 0x7C20 = .ok (.jsr .nextLiteral) ∧ (Instr.jsr .nextLiteral).operands = (none, .nextLiteral)) :=
  ⟨⟨rfl, rfl⟩, rfl, rfl⟩

theorem witness_StepRunsTheDecodedInstruction :
    let s := codeAt 0xFFFF [0x8801]
    s.lastError = none ∧ s.atBoundary = true ∧ decode (s.loadValue (s.get .pc)) = .ok (.set (.reg .a) (.short 2)) :=
  ⟨rfl, rfl, rfl⟩

theorem witness_IllegalOpcodeLatchesOpcodeError :
    let s := State.reset
    s.lastError = none ∧ s.atBoundary = true ∧ decode (s.loadValue (s.get .pc)) = .error ⟨.special, 0⟩ :=
  ⟨rfl, rfl, rfl⟩

/-- Both forms, each ending well and in an error. -/
theorem witness_CyclesAreBaseCostPlusNextWords :
    (∃ t, exec (.add .push .nextLiteral) State.reset = .next t) ∧
      (Instr.add .push .nextLiteral).operands = (some .push, .nextLiteral) ∧
      isConditional (.add .push .nextLiteral) = false ∧
      (∃ t, exec (.add .push .nextLiteral) (protectOne State.reset 0xFFFF) = .next t) ∧
      (∃ t, exec (.hcf .pick) State.reset = .next t) ∧ (Instr.hcf .pick).operands = (none, .pick) ∧
      (∃ t, exec (.hwi .pick) State.reset = .next t) ∧ (Instr.hwi .pick).operands = (none, .pick) :=
  ⟨⟨_, rfl⟩, rfl, rfl, ⟨_, rfl⟩, ⟨_, rfl⟩, rfl, ⟨_, rfl⟩, rfl⟩

theorem witness_LatchedErrorFreezesTheBlock : (State.reset.raise .halt).lastError = some .halt := rfl

theorem witness_EveryStepKeepsTheInvariants :
    State.reset.Inv ∧ (∃ t, step State.reset = .next t) ∧
      (withVideo (protectOne (code [0x8BC1, 0x8000]) 5)).Inv ∧
      ∃ t, step (withVideo (protectOne (code [0x8BC1, 0x8000]) 5)) = .next t :=
  ⟨by decide, ⟨_, rfl⟩, by decide, ⟨_, rfl⟩⟩

theorem witness_StepIsTheCycleMachineToTheBoundary :
    State.reset.lastError = none ∧ State.reset.atBoundary = true := ⟨rfl, rfl⟩

/-- `SET A, 0x30` waiting in DECODE_A for its next word (95 S2, after cycle 1). -/
def inDecodeA : State :=
  { codeAt 1 [0x30] with
    scratch := { Scratch.reset with step := .decodeA, delayed := true, form := .basic, op := 0x01, fa := 0x1f } }

theorem witness_StepInFlightEndsAtABoundary :
    inDecodeA.Inv ∧ inDecodeA.lastError = none ∧ inDecodeA.atBoundary = false ∧ ∃ t, step inDecodeA = .next t :=
  ⟨by decide, rfl, rfl, ⟨_, rfl⟩⟩

/-- Unmapped and free, mapped at both ends of a region, protected, the keyboard's last slot, and a buffer's word. -/
theorem witness_RouterLoadsAndStores :
    State.reset.isMapped 0xFFFF = false ∧ isProtected State.reset.prot 0xFFFF = false ∧
    (∃ r, regionAt (withVideo State.reset).mmap 0x8000 = some r) ∧
    (∃ r, regionAt (withVideo State.reset).mmap 0x83FF = some r) ∧
    (withVideo State.reset).isMapped 0x8400 = false ∧
    (protectOne State.reset 0xFFFF).isMapped 0xFFFF = false ∧
    isProtected (protectOne State.reset 0xFFFF).prot 0xFFFF = true ∧
    (let g : MapRegion := ⟨0x9000, 0x10, .freshKeyboard⟩;
      regionAt [g] (0x900F : Word).toNat = some g ∧ g.dev.keepsWord ((0x900F : Word).toNat - g.start) = true ∧
        g.dev = .keyboard (Vector.replicate 16 0) 0 []) ∧
    (let g : MapRegion := ⟨0, 0x10, .buffer []⟩;
      regionAt [g] (0 : Word).toNat = some g ∧ g.dev.keepsWord ((0 : Word).toNat - g.start) = true) :=
  ⟨rfl, rfl, ⟨_, rfl⟩, ⟨_, rfl⟩, rfl, rfl, rfl, by decide, by decide⟩

theorem witness_SkipChainEndsAtTheFirstNonConditional :
    (withVideo (code [0x8712, 0x6001])).noExternal = true ∧
      ∃ chain, scanChain 0x10000 0 0 (withVideo (code [0x8712, 0x6001])) = some chain ∧ chain.skipped = 2 :=
  ⟨rfl, _, rfl, rfl⟩

/-- A scan that ends; one that does not after a true predicate, and one after a false predicate. -/
theorem witness_SkipChainIsStuckExactlyWhenAllConditional :
    (withVideo (code [0x8712])).noExternal = true ∧
      (Instr.ife (.reg .a) (.reg .b)).operands = (some (.reg .a), .reg .b) ∧
      isConditional (.ife (.reg .a) (.reg .b)) = true ∧
      (let r := basicAtCompletion 2 (.reg .a) (.reg .b) State.reset;
      scanChain 0x10000 (r.get .pc) 0 r ≠ none) ∧
      (let r := basicAtCompletion 2 (.reg .a) (.reg .b) (conditionalWords 0x10000 RegFile.reset);
      predicateOf (.ife (.reg .a) (.reg .b)) r.scratch.vb r.scratch.va = true ∧ scanChain 0x10000 (r.get .pc) 0 r = none) ∧
      (let r := basicAtCompletion 2 (.reg .a) (.reg .b) (conditionalWords 0x10000 { RegFile.reset with a := 1 });
      predicateOf (.ife (.reg .a) (.reg .b)) r.scratch.vb r.scratch.va = false ∧
        scanChain 0x10000 (r.get .pc) 0 r = none) :=
  ⟨rfl, rfl, rfl, by decide, ⟨rfl, conditionalWords_stuck _ (le_refl _) _⟩, rfl, conditionalWords_stuck _ (le_refl _) _⟩

/-- The largest range that fits and the smallest that does not (95 M5), over a list that is not empty. -/
theorem witness_ProtectAddsAndRemovesTheRange :
    protWf (protectOne State.reset 0xFFFF).prot ∧ 0x10000 < (0xFFF0 : Word).toNat + 0x11 ∧
      (0xFFF0 : Word).toNat + 0x10 ≤ 0x10000 ∧ (0xFFFF : Word).toNat + 1 ≤ 0x10000 := by decide

/-- A range that touches the protected address and shares none with it, and one that overlaps it. -/
theorem witness_ProtectThenUnprotectRestoresTheList :
    protWf (protectOne State.reset 5).prot ∧
      (∀ ad, (6 : Word).toNat ≤ ad → ad < (6 : Word).toNat + 2 → isProtected (protectOne State.reset 5).prot ad = false) ∧
      (∃ t, memProtect 6 2 true (protectOne State.reset 5) = .ok t) ∧
      (∃ ad, (4 : Word).toNat ≤ ad ∧ ad < (4 : Word).toNat + 2 ∧ isProtected (protectOne State.reset 5).prot ad = true) ∧
      ∃ t, memProtect 4 2 true (protectOne State.reset 5) = .ok t := by
  refine ⟨by decide, ?_, ⟨_, rfl⟩, ⟨5, by decide, by decide, by decide⟩, ⟨_, rfl⟩⟩
  intro ad h _
  have h' : 6 ≤ ad := h
  simp only [isProtected, protectOne, List.any_cons, List.any_nil, Region.contains, Bool.or_false, Bool.and_eq_false_iff,
    decide_eq_false_iff_not]
  omega

/-- 95 M8, M7 and M9, each range at its end. -/
theorem witness_MapThenUnmapRestoresTheMap :
    0x10000 < (0xFC00 : Word).toNat + 0x401 ∧
    ((0x83FF : Word).toNat + 1 ≤ 0x10000 ∧
      ∃ r ∈ (withVideo State.reset).mmap, ∃ ad, r.contains ad = true ∧ (0x83FF : Word).toNat ≤ ad ∧
        ad < (0x83FF : Word).toNat + 1) ∧
    ((0xFC00 : Word).toNat + 0x400 ≤ 0x10000 ∧
      (∀ r ∈ (withVideo State.reset).mmap, ∀ ad, r.contains ad = true →
        ¬ ((0xFC00 : Word).toNat ≤ ad ∧ ad < (0xFC00 : Word).toNat + 0x400)) ∧
      (withVideo State.reset).mmap.Pairwise (fun g later => g.start ≤ later.start)) := by
  refine ⟨by decide, ⟨by decide, _, List.mem_singleton.mpr rfl, 0x83FF, by decide, by decide, by decide⟩, by decide, ?_,
    by decide⟩
  intro r hr ad hc h
  rw [List.mem_singleton.mp hr] at hc
  have h' : 0xFC00 ≤ ad := h.1
  simp only [MapRegion.contains, Bool.and_eq_true, decide_eq_true_eq] at hc
  omega

/-- The keyboard behind the video device (60 R309). -/
theorem witness_PollFillsOnlyAZeroSlotAtTheCursor :
    let s := { State.reset with
      mmap := [⟨0x8000, 0x400, .freshVideo⟩, ⟨0x9000, 0x10, .keyboard (Vector.replicate 16 0) 15 []⟩] }
    s.mmap = [⟨0x8000, 0x400, .freshVideo⟩] ++ ⟨0x9000, 0x10, .keyboard (Vector.replicate 16 0) 15 []⟩ :: [] ∧
      [(⟨0x8000, 0x400, .freshVideo⟩ : MapRegion)].all (fun r => !r.dev.isKeyboard) = true := ⟨rfl, rfl⟩

/-- 95 M12: one word too many, and the most that fit. -/
theorem witness_LoaderWritesTheBackingStoreOnly :
    State.reset.running = false ∧ 0x10000 < 0xFFFE + [(1 : Word), 2, 3].length ∧
      0xFFFE + [(1 : Word), 2].length ≤ 0x10000 := by decide

theorem witness_ShiftsHaveTheClosedForms :
    (0 : Word).toNat = 0 ∧ 1 ≤ (1 : Word).toNat ∧ (0xF : Word).toNat ≤ 15 ∧ 16 ≤ (0x10 : Word).toNat ∧
      (0x1F : Word).toNat ≤ 31 ∧ 32 ≤ (0x20 : Word).toNat ∧ 32 ≤ (0xFFFF : Word).toNat := by decide

end Sys2Proof.Tests
end

section
/-! PROOFS. The invariant of the machine (spec 10 R31, R35, R36, R39): `State.MemoryWf` is its part on memory, which every
operation keeps, and the rules of `State.Inv`, one per phase, give its part on the scratch. -/

namespace Sys2Proof.Machine

/-! ### The mapped regions and their devices -/

/-- A region after a change of the device at `ad` is an old one, or the old one that `ad` is in with its device changed. -/
theorem mem_updateRegion {ad : Nat} {change : Nat → Device → Device} {mm : List MapRegion} {g : MapRegion}
    (h : g ∈ updateRegion ad change mm) :
    g ∈ mm ∨ ∃ r ∈ mm, g = { r with dev := change (ad - r.start) r.dev } := by
  induction mm with
  | nil => exact .inl h
  | cons r rs ih =>
    simp only [updateRegion] at h
    split at h
    · rcases List.mem_cons.mp h with rfl | h
      · exact .inr ⟨r, List.mem_cons_self, rfl⟩
      · exact .inl (List.mem_cons_of_mem r h)
    · rcases List.mem_cons.mp h with rfl | h
      · exact .inl List.mem_cons_self
      · rcases ih h with h | ⟨r', hr', rfl⟩
        · exact .inl (List.mem_cons_of_mem r h)
        · exact .inr ⟨r', List.mem_cons_of_mem r hr', rfl⟩

/-- A region after a poll is an old one, or an old one with its device polled. -/
theorem mem_pollRegions {event : Option KeyEvent} {mm : List MapRegion} {g : MapRegion}
    (h : g ∈ pollRegions event mm) : g ∈ mm ∨ ∃ r ∈ mm, g = { r with dev := r.dev.poll event } := by
  induction mm with
  | nil => exact .inl h
  | cons r rs ih =>
    simp only [pollRegions] at h
    split at h
    · rcases List.mem_cons.mp h with rfl | h
      · exact .inr ⟨r, List.mem_cons_self, rfl⟩
      · exact .inl (List.mem_cons_of_mem r h)
    · rcases List.mem_cons.mp h with rfl | h
      · exact .inl List.mem_cons_self
      · rcases ih h with h | ⟨r', hr', rfl⟩
        · exact .inl (List.mem_cons_of_mem r h)
        · exact .inr ⟨r', List.mem_cons_of_mem r hr', rfl⟩

theorem Device.afterLoad_wf {d : Device} (offset : Nat) (h : d.wf = true) : (d.afterLoad offset).wf = true := by
  cases d with
  | external id log => rfl
  | video | keyboard | buffer => exact h

theorem Device.afterStore_wf {d : Device} {offset : Nat} (v : Word) (ho : offset < Config.memorySize)
    (h : d.wf = true) : (d.afterStore offset v).wf = true := by
  cases d with
  | video cells => exact decide_eq_true (WordMem.write_wf cells offset v (of_decide_eq_true h) ho)
  | buffer words => exact decide_eq_true (WordMem.write_wf words offset v (of_decide_eq_true h) ho)
  | keyboard | external => rfl

/-- The poll changes a keyboard only, and every keyboard's data is canonical. -/
theorem Device.poll_wf {d : Device} (event : Option KeyEvent) (h : d.wf = true) : (d.poll event).wf = true := by
  cases d with
  | keyboard ring cursor accepted =>
    simp only [Device.poll]
    split
    · split
      · split <;> rfl
      · rfl
    · rfl
  | video | buffer | external => exact h

/-- The mapped list is well formed by where the regions lie and by each device's data (10 R36, R39). -/
theorem mmapWf_iff_bounds (mm : List MapRegion) :
    mmapWf mm ↔
      ((regionBounds mm).Pairwise (fun r later =>
          r.start ≤ later.start ∧ sharesAddress r.start r.length later.start later.length = false) ∧
        ∀ r ∈ regionBounds mm, r.start + r.length ≤ Config.memorySize) ∧
      ∀ r ∈ mm, r.dev.wf = true := by
  simp only [mmapWf, regionBounds, List.pairwise_map, List.forall_mem_map, forall_and, and_assoc]

/-- A list that moves no region and has canonical devices is well formed if the old one was. -/
theorem mmapWf_of_bounds {mm mm' : List MapRegion} (hb : regionBounds mm' = regionBounds mm)
    (hd : ∀ r ∈ mm', r.dev.wf = true) (h : mmapWf mm) : mmapWf mm' :=
  (mmapWf_iff_bounds mm').mpr ⟨hb ▸ ((mmapWf_iff_bounds mm).mp h).1, hd⟩

/-- Changing one device to a canonical one keeps the mapped list well formed; the offset is at most the address. -/
theorem updateRegion_wf {ad : Nat} {change : Nat → Device → Device} {mm : List MapRegion}
    (hc : ∀ offset d, offset ≤ ad → d.wf = true → (change offset d).wf = true) (h : mmapWf mm) :
    mmapWf (updateRegion ad change mm) := by
  refine mmapWf_of_bounds (updateRegion_bounds ad change mm) (fun g hg => ?_) h
  rcases mem_updateRegion hg with hg | ⟨r, hr, rfl⟩
  · exact (h.2 g hg).2
  · exact hc _ _ (Nat.sub_le ad r.start) (h.2 r hr).2

theorem pollRegions_wf {mm : List MapRegion} (event : Option KeyEvent) (h : mmapWf mm) :
    mmapWf (pollRegions event mm) := by
  refine mmapWf_of_bounds (pollRegions_bounds event mm) (fun g hg => ?_) h
  rcases mem_pollRegions hg with hg | ⟨r, hr, rfl⟩
  · exact (h.2 g hg).2
  · exact Device.poll_wf event (h.2 r hr).2

/-! ### The invariant's part on memory -/

/-- Backing store, protected list and mapped list are well formed: the invariant without its clause on the scratch. -/
structure State.MemoryWf (s : State) : Prop where
  backing : WordMem.wf s.backing
  prot : protWf s.prot
  mmap : mmapWf s.mmap

theorem State.inv_iff (s : State) : s.Inv ↔ s.MemoryWf ∧ s.scratchWf :=
  ⟨fun ⟨hb, hp, hm, hs⟩ => ⟨⟨hb, hp, hm⟩, hs⟩, fun ⟨h, hs⟩ => ⟨h.backing, h.prot, h.mmap, hs⟩⟩

/-- Registers, scratch, error and counters do not matter to the memory's form. -/
theorem State.MemoryWf.of_eq {s t : State} (h : s.MemoryWf) (hb : t.backing = s.backing) (hp : t.prot = s.prot)
    (hm : t.mmap = s.mmap) : t.MemoryWf :=
  ⟨hb ▸ h.backing, hp ▸ h.prot, hm ▸ h.mmap⟩

theorem State.MemoryWf.setReg {s : State} (h : s.MemoryWf) (r : Reg) (v : Word) : (s.setReg r v).MemoryWf :=
  h.of_eq rfl rfl rfl

theorem State.MemoryWf.setPhase {s : State} (h : s.MemoryWf) (p : Phase) : (s.setPhase p).MemoryWf :=
  h.of_eq rfl rfl rfl

theorem State.MemoryWf.afterLoad {s : State} (h : s.MemoryWf) (ad : Word) : (s.afterLoad ad).MemoryWf :=
  ⟨h.backing, h.prot, updateRegion_wf (fun offset _ _ hd => Device.afterLoad_wf offset hd) h.mmap⟩

theorem State.MemoryWf.nextWord {s : State} (h : s.MemoryWf) : s.nextWord.after.MemoryWf :=
  (h.afterLoad _).setReg _ _

theorem State.MemoryWf.endCycle {s : State} (h : s.MemoryWf) : s.endCycle.MemoryWf :=
  ⟨h.backing, h.prot, pollRegions_wf _ h.mmap⟩

theorem State.MemoryWf.resolve {s : State} (h : s.MemoryWf) (o : Operand) : (resolve o s).after.MemoryWf := by
  cases o with
  | reg | sp | pc | ex | short => exact h
  | indirect | peek => exact h.afterLoad _
  | push | pop => exact (h.setReg _ _).afterLoad _
  | indexed | pick | nextIndirect => exact h.nextWord.afterLoad _
  | nextLiteral => exact h.nextWord

theorem State.MemoryWf.resolveA {s : State} (h : s.MemoryWf) (a : Operand) : (s.resolveA a).MemoryWf :=
  State.MemoryWf.of_eq (State.MemoryWf.resolve (s := s.setDelayed false) (h.of_eq rfl rfl rfl) a) rfl rfl rfl

theorem State.MemoryWf.resolveB {s : State} (h : s.MemoryWf) (b : Operand) : (s.resolveB b).MemoryWf :=
  State.MemoryWf.of_eq (State.MemoryWf.resolve (s := s.setDelayed false) (h.of_eq rfl rfl rfl) b) rfl rfl rfl

theorem State.MemoryWf.waitForWord {s : State} (h : s.MemoryWf) (o : Operand) : (s.waitForWord o).MemoryWf := by
  unfold State.waitForWord
  split
  · exact State.MemoryWf.endCycle (h.of_eq rfl rfl rfl)
  · exact h

theorem State.MemoryWf.burnCycles {s : State} (h : s.MemoryWf) (n : Nat) : (burnCycles n s).MemoryWf := by
  induction n generalizing s with
  | zero => exact h
  | succ n ih => exact ih (State.MemoryWf.endCycle (h.of_eq rfl rfl rfl))

theorem State.MemoryWf.specialAtCompletion {s : State} (h : s.MemoryWf) (cost : Nat) (a : Operand) :
    (specialAtCompletion cost a s).MemoryWf := by
  have hstart : (s.startInstr cost).MemoryWf := h.of_eq rfl rfl rfl
  exact ((((hstart.waitForWord a).resolveA a).setPhase _).burnCycles _).setPhase _

theorem State.MemoryWf.basicAtCompletion {s : State} (h : s.MemoryWf) (cost : Nat) (b a : Operand) :
    (basicAtCompletion cost b a s).MemoryWf := by
  have hstart : (s.startInstr cost).MemoryWf := h.of_eq rfl rfl rfl
  have hA := ((hstart.waitForWord a).resolveA a).setPhase .decodeB
  exact ((((hA.waitForWord b).resolveB b).setPhase _).burnCycles _).setPhase _

theorem State.MemoryWf.scanChain {s : State} (h : s.MemoryWf) {fuel : Nat} {p : Word} {k : Nat} {chain : ChainEnd}
    (hc : scanChain fuel p k s = some chain) : chain.after.MemoryWf := by
  induction fuel generalizing p k s with
  | zero => cases hc
  | succ n ih =>
    simp only [Machine.scanChain] at hc
    split at hc
    · exact ih (h.afterLoad p) hc
    · cases hc; exact h.afterLoad p

theorem State.MemoryWf.runSkip {s : State} (h : s.MemoryWf) : (runSkip s).MemoryWf := by
  have hburn := h.endCycle.burnCycles (s.scratch.remaining - 1)
  exact State.MemoryWf.endCycle (hburn.of_eq rfl rfl rfl)

/-! ### What a completing cycle keeps -/

/-- The memory stays well formed and the scratch as it is. -/
structure State.KeepsWf (s t : State) : Prop where
  memory : s.MemoryWf → t.MemoryWf
  scratch : t.scratch = s.scratch

theorem State.KeepsWf.refl (s : State) : s.KeepsWf s := ⟨id, rfl⟩

theorem State.KeepsWf.trans {s t u : State} (h : s.KeepsWf t) (h' : t.KeepsWf u) : s.KeepsWf u :=
  ⟨fun hs => h'.memory (h.memory hs), h'.scratch.trans h.scratch⟩

theorem State.setReg_keepsWf (s : State) (r : Reg) (v : Word) : s.KeepsWf (s.setReg r v) :=
  ⟨fun h => h.setReg r v, rfl⟩

/-- The operation keeps memory and scratch well formed, whether it raises or not. -/
def Effect.Keeps (s : State) : Effect → Prop
  | .ok t => s.KeepsWf t
  | .raised _ t => s.KeepsWf t

theorem Effect.Keeps.of_keepsWf {s t : State} (h : s.KeepsWf t) {x : Effect} (hx : x.Keeps t) : x.Keeps s := by
  cases x with
  | ok u => exact State.KeepsWf.trans h hx
  | raised e u => exact State.KeepsWf.trans h hx

theorem Effect.Keeps.andThen {s : State} {x : Effect} {f : State → Effect} (hx : x.Keeps s)
    (hf : ∀ t, (f t).Keeps t) : (x.andThen f).Keeps s := by
  cases x with
  | ok t => exact Effect.Keeps.of_keepsWf hx (hf t)
  | raised e t => exact hx

theorem State.store_keeps (s : State) (ad v : Word) : (s.store ad v).Keeps s := by
  rcases s.store_cases ad v with ⟨-, h⟩ | ⟨-, -, h⟩ | ⟨-, -, h⟩ <;> rw [h]
  · have hdev : ∀ offset d, offset ≤ ad.toNat → d.wf = true → (Device.afterStore d offset v).wf = true :=
      fun _ _ ho hd => Device.afterStore_wf v (ho.trans_lt (word_lt_memorySize ad)) hd
    exact ⟨fun hs => ⟨hs.backing, hs.prot, updateRegion_wf hdev hs.mmap⟩, rfl⟩
  · exact State.KeepsWf.refl s
  · exact ⟨fun hs => ⟨WordMem.write_wf _ _ v hs.backing (word_lt_memorySize ad), hs.prot, hs.mmap⟩, rfl⟩

theorem State.commit_keeps (s : State) (target : Address) (v : Word) : (s.commit target v).Keeps s := by
  cases target with
  | none => exact State.KeepsWf.refl s
  | register r => exact s.setReg_keepsWf r v
  | memory ad => exact s.store_keeps ad v

theorem State.writeB_keeps (s : State) (v : Word) : (s.writeB v).Keeps s := s.commit_keeps _ v

theorem State.writeExAndB_keeps (s : State) (ex v : Word) : (s.writeExAndB ex v).Keeps s :=
  Effect.Keeps.of_keepsWf (s.setReg_keepsWf .ex ex) (State.commit_keeps _ _ v)

theorem State.pushWord_keeps (s : State) (v : Word) : (s.pushWord v).Keeps s :=
  Effect.Keeps.of_keepsWf (s.setReg_keepsWf .sp _) (State.store_keeps _ _ v)

theorem performSti_keeps (s : State) : (performSti s).Keeps s :=
  (s.writeB_keeps _).andThen (fun t => (t.setReg_keepsWf .i _).trans (State.setReg_keepsWf _ .j _))

theorem performJsr_keeps (s : State) : (performJsr s).Keeps s :=
  (s.pushWord_keeps _).andThen (fun t => t.setReg_keepsWf .pc _)

theorem performInt_keeps (s : State) : (performInt s).Keeps s :=
  (s.pushWord_keeps _).andThen (fun t =>
    (t.pushWord_keeps _).andThen (fun u => (u.setReg_keepsWf .a _).trans (State.setReg_keepsWf _ .pc _)))

theorem performHwq_keeps (s : State) : (performHwq s).Keeps s :=
  ((((s.setReg_keepsWf .a 0).trans (State.setReg_keepsWf _ .b 0)).trans (State.setReg_keepsWf _ .c 0)).trans
    (State.setReg_keepsWf _ .x 0)).trans (State.setReg_keepsWf _ .y 0)

/-- What `perform` may do to memory and scratch: nothing, or start a skip of at least one cycle (43 R251). -/
def Completion.Keeps (s : State) : Completion → Prop
  | .finished t => s.KeepsWf t
  | .raised _ t => s.KeepsWf t
  | .skipping t => ∃ u p k, s.KeepsWf u ∧ 1 ≤ k ∧ t = u.startSkip p k
  | .stuck => True

theorem Effect.Keeps.complete {s : State} {x : Effect} (h : x.Keeps s) : x.complete.Keeps s := by
  cases x with
  | ok t => exact h
  | raised e t => exact h

/-- A failed IFx starts a skip of as many cycles as the chain has instructions, so of at least one (43 R250, R251). -/
theorem conditional_keeps (holds : Word → Word → Bool) (s : State) : (conditional holds s).Keeps s := by
  unfold conditional
  split
  · exact State.KeepsWf.refl s
  · split
    · next chain hc =>
      obtain ⟨hskipped, -, -, -, hscratch, -, -⟩ := scanChain_spec _ _ _ _ _ hc
      exact ⟨chain.after, _, _, ⟨fun h => h.scanChain hc, hscratch⟩, by omega, rfl⟩
    · trivial

/-- What every instruction's completing cycle may do (40 R139). -/
theorem performInstr_keeps (i : Instr) (s : State) : (performInstr i s).Keeps s := by
  cases i with
  | set | mod | and | bor | xor => exact (s.writeB_keeps _).complete
  | add | sub | mul | mli | div | dvi | adx | sbx | shr | asr | shl => exact (s.writeExAndB_keeps _ _).complete
  | sti => exact (performSti_keeps s).complete
  | ifb | ifc | ife | ifn | ifg | ifa | ifl | ifu => exact conditional_keeps _ s
  | jsr => exact (performJsr_keeps s).complete
  | int => exact (performInt_keeps s).complete
  | iag | hwn => exact (s.commit_keeps _ _).complete
  | ias => exact s.setReg_keepsWf .ia _
  | hwq => exact (performHwq_keeps s).complete
  | hcf | hwi => exact State.KeepsWf.refl s

/-! ### The invariant's part on the scratch -/

theorem State.scratchWf_of_scratch_eq {s t : State} (h : t.scratch = s.scratch) (hs : s.scratchWf) : t.scratchWf := by
  simpa only [State.scratchWf, State.legalInFlight, inFlight, h] using hs

/-- At an instruction boundary the scratch agrees exactly when `remaining` is at least 1 and no latch is set. -/
theorem State.inv_fetch_iff {s : State} (hstep : s.scratch.step = .fetch) :
    s.Inv ↔ s.MemoryWf ∧ 1 ≤ s.scratch.remaining ∧ s.scratch.delayed = false ∧ s.scratch.synth = false := by
  simp [State.inv_iff, State.scratchWf, hstep, and_comm (a := s.scratch.synth = false)]

/-- In EXECUTE the synthesised SET may be in flight, and no operand waits. -/
theorem State.inv_execute_iff {s : State} (hstep : s.scratch.step = .execute) :
    s.Inv ↔ s.MemoryWf ∧ 1 ≤ s.scratch.remaining ∧ s.legalInFlight = true ∧ s.scratch.delayed = false := by
  simp [State.inv_iff, State.scratchWf, hstep]

/-- What holds in each phase past FETCH: only the synthesised SET, which is in EXECUTE, has its own latch (10 R31). -/
theorem State.inv_past_fetch {s : State} (h : s.Inv) (hstep : s.scratch.step ≠ .fetch) :
    s.MemoryWf ∧ 1 ≤ s.scratch.remaining ∧ s.legalInFlight = true ∧
      (s.scratch.step ≠ .execute → s.scratch.synth = false) := by
  obtain ⟨hmem, hrem, hlegal, -, hsynth, -⟩ := s.inv_iff.mp h
  exact ⟨hmem, hrem, hlegal hstep, fun hexec => Bool.eq_false_iff.mpr fun hs => hexec (hsynth hs)⟩

theorem State.inv_of_decodeA {s : State} (hstep : s.scratch.step = .decodeA) (hmem : s.MemoryWf)
    (hrem : 1 ≤ s.scratch.remaining) (hlegal : s.legalInFlight = true) (hdelayed : s.scratch.delayed = false)
    (hsynth : s.scratch.synth = false) : s.Inv := by
  simp [State.inv_iff, State.scratchWf, hstep, hmem, hrem, hlegal, hdelayed, hsynth]

theorem State.inv_of_decodeB {s : State} (hstep : s.scratch.step = .decodeB) (hmem : s.MemoryWf)
    (hrem : 1 ≤ s.scratch.remaining) (hlegal : s.legalInFlight = true) (hbasic : s.scratch.form = .basic)
    (hdelayed : s.scratch.delayed = false) (hsynth : s.scratch.synth = false) : s.Inv := by
  simp [State.inv_iff, State.scratchWf, hstep, hmem, hrem, hlegal, hbasic, hdelayed, hsynth]

/-- The latch set while an operand waits for its next word (40 R135, R137). -/
theorem State.setDelayed_inv {s : State} (h : s.Inv)
    (hwaits : (s.scratch.step = .decodeA ∧ (operandA s.scratch.fa).needsWord = true) ∨
      (s.scratch.step = .decodeB ∧ (operandB s.scratch.fb).needsWord = true)) :
    (s.setDelayed true).Inv := by
  obtain ⟨hmem, hrem, hlegal, hbasic, hsynth, -⟩ := s.inv_iff.mp h
  exact (State.inv_iff _).mpr ⟨hmem.of_eq rfl rfl rfl, hrem, hlegal, hbasic, hsynth, fun _ => hwaits⟩

theorem State.legalInFlight_resolveA (s : State) (a : Operand) (p : Phase) :
    ((s.resolveA a).setPhase p).legalInFlight = s.legalInFlight := by
  simp only [State.legalInFlight, inFlight, State.setPhase, State.resolveA_scratch]

theorem State.legalInFlight_resolveB (s : State) (b : Operand) (p : Phase) :
    ((s.resolveB b).setPhase p).legalInFlight = s.legalInFlight := by
  simp only [State.legalInFlight, inFlight, State.setPhase, State.resolveB_scratch]

/-- From DECODE_A a basic instruction goes on to DECODE_B (40 R135). -/
theorem State.resolveA_decodeB_inv {s : State} (h : s.Inv) (hstep : s.scratch.step = .decodeA)
    (hform : s.scratch.form = .basic) (a : Operand) : ((s.resolveA a).setPhase .decodeB).Inv := by
  obtain ⟨hmem, hrem, hlegal, hsynth⟩ := State.inv_past_fetch h (by simp [hstep])
  refine State.inv_of_decodeB rfl ((hmem.resolveA a).setPhase _) ?_ ?_ ?_ ?_ ?_
  · simpa only [State.setPhase_remaining, State.resolveA_scratch] using hrem
  · rwa [State.legalInFlight_resolveA]
  · simpa only [State.setPhase_form, State.resolveA_scratch] using hform
  · simp only [State.setPhase_delayed, State.resolveA_scratch]
  · simpa only [State.setPhase_synth, State.resolveA_scratch] using hsynth (by simp [hstep])

/-- From DECODE_A a special instruction goes on to EXECUTE (40 R135). -/
theorem State.resolveA_execute_inv {s : State} (h : s.Inv) (hstep : s.scratch.step = .decodeA) (a : Operand) :
    ((s.resolveA a).setPhase .execute).Inv := by
  obtain ⟨hmem, hrem, hlegal, -⟩ := State.inv_past_fetch h (by simp [hstep])
  refine (State.inv_execute_iff rfl).mpr ⟨(hmem.resolveA a).setPhase _, ?_, ?_, ?_⟩
  · simpa only [State.setPhase_remaining, State.resolveA_scratch] using hrem
  · rwa [State.legalInFlight_resolveA]
  · simp only [State.setPhase_delayed, State.resolveA_scratch]

/-- From DECODE_B an instruction goes on to EXECUTE (40 R137). -/
theorem State.resolveB_execute_inv {s : State} (h : s.Inv) (hstep : s.scratch.step = .decodeB) (b : Operand) :
    ((s.resolveB b).setPhase .execute).Inv := by
  obtain ⟨hmem, hrem, hlegal, -⟩ := State.inv_past_fetch h (by simp [hstep])
  refine (State.inv_execute_iff rfl).mpr ⟨(hmem.resolveB b).setPhase _, ?_, ?_, ?_⟩
  · simpa only [State.setPhase_remaining, State.resolveB_scratch] using hrem
  · rwa [State.legalInFlight_resolveB]
  · simp only [State.setPhase_delayed, State.resolveB_scratch]

/-! ### The cycle machine keeps the invariant -/

theorem State.KeepsWf.inv {s t : State} (h : s.KeepsWf t) (hs : s.Inv) : t.Inv := by
  obtain ⟨hmem, hscratch⟩ := s.inv_iff.mp hs
  exact t.inv_iff.mpr ⟨h.memory hmem, State.scratchWf_of_scratch_eq h.scratch hscratch⟩

theorem State.raise_inv {s : State} (h : s.Inv) (e : Error) : (s.raise e).Inv := h

theorem State.endCycle_inv {s : State} (h : s.Inv) : s.endCycle.Inv :=
  State.KeepsWf.inv ⟨fun hmem => hmem.endCycle, rfl⟩ h

theorem State.afterCycle_inv {s : State} (h : s.Inv) : s.afterCycle.Inv := by
  unfold State.afterCycle
  split
  · exact h
  · exact State.endCycle_inv h

/-- The completing cycle sets the tag to FETCH before it performs an instruction of the program (40 R132). -/
theorem State.setPhase_fetch_inv {s : State} (h : s.Inv) (hstep : s.scratch.step = .execute)
    (hsynth : s.scratch.synth = false) : (s.setPhase .fetch).Inv := by
  obtain ⟨hmem, hrem, -, hdelayed⟩ := (State.inv_execute_iff hstep).mp h
  exact (State.inv_fetch_iff rfl).mpr ⟨hmem.setPhase _, hrem, hdelayed, hsynth⟩

/-- The last cycle of a skip ends at a boundary (43 R251). -/
theorem State.finishSkip_inv {s : State} (h : s.Inv) (hstep : s.scratch.step = .execute) : s.finishSkip.Inv := by
  obtain ⟨hmem, hrem, -, hdelayed⟩ := (State.inv_execute_iff hstep).mp h
  exact (State.inv_fetch_iff rfl).mpr ⟨hmem.of_eq rfl rfl rfl, hrem, hdelayed, rfl⟩

/-- While a skip runs, the IFx that started it is still in flight (43 R251). -/
theorem State.startSkip_inv {s : State} (h : s.Inv) (hstep : s.scratch.step = .fetch)
    (hlegal : s.legalInFlight = true) (p : Word) {k : Nat} (hk : 1 ≤ k) : (s.startSkip p k).Inv := by
  obtain ⟨hmem, -, hdelayed, -⟩ := (State.inv_fetch_iff hstep).mp h
  exact (State.inv_execute_iff rfl).mpr ⟨hmem.of_eq rfl rfl rfl, hk, hlegal, hdelayed⟩

theorem endOfCompletion_inv {s t : State} {c : Completion} (hc : c.Keeps s) (hs : s.Inv)
    (hstep : s.scratch.step = .fetch) (hlegal : s.legalInFlight = true) (h : endOfCompletion c = .next t) : t.Inv := by
  cases c with
  | finished u => cases h; exact State.KeepsWf.inv hc hs
  | raised e u => cases h; exact State.raise_inv (State.KeepsWf.inv hc hs) e
  | skipping u =>
    cases h
    obtain ⟨v, p, k, hv, hk, rfl⟩ := hc
    have hv' : v.legalInFlight = true := by simpa only [State.legalInFlight, inFlight, hv.scratch] using hlegal
    exact State.startSkip_inv (hv.inv hs) (hv.scratch ▸ hstep) hv' p hk
  | stuck => cases h

theorem cycleExecute_inv {s t : State} (hs : s.Inv) (hstep : s.scratch.step = .execute)
    (h : cycleExecute s = .next t) : t.Inv := by
  obtain ⟨hmem, -, hlegal, hdelayed⟩ := (State.inv_execute_iff hstep).mp hs
  unfold cycleExecute at h
  split at h
  · next hrem =>
    cases h
    exact (State.inv_execute_iff (s := s.setRemaining (s.scratch.remaining - 1)) hstep).mpr
      ⟨hmem.of_eq rfl rfl rfl, Nat.le_sub_one_of_lt hrem, hlegal, hdelayed⟩
  · split at h
    · cases h; exact State.finishSkip_inv hs hstep
    · next hsynth =>
      have hfetch := State.setPhase_fetch_inv hs hstep (Bool.eq_false_iff.mpr hsynth)
      split at h
      · next i _ => exact endOfCompletion_inv (performInstr_keeps i _) hfetch rfl hlegal h
      · next bad _ => cases h; exact State.raise_inv hfetch (.opcode bad.form bad.code)

theorem cycleDecodeB_inv {s t : State} (hs : s.Inv) (hstep : s.scratch.step = .decodeB)
    (h : cycleDecodeB s = .next t) : t.Inv := by
  unfold cycleDecodeB at h
  split at h
  · next hwaits =>
    cases h
    exact State.setDelayed_inv hs (.inr ⟨hstep, (Bool.and_eq_true_iff.mp hwaits).1⟩)
  · exact cycleExecute_inv (State.resolveB_execute_inv hs hstep _) rfl h

theorem cycleDecodeA_inv {s t : State} (hs : s.Inv) (hstep : s.scratch.step = .decodeA)
    (h : cycleDecodeA s = .next t) : t.Inv := by
  unfold cycleDecodeA at h
  split at h
  · next hwaits =>
    cases h
    exact State.setDelayed_inv hs (.inl ⟨hstep, (Bool.and_eq_true_iff.mp hwaits).1⟩)
  · split at h
    · next hform => exact cycleDecodeB_inv (State.resolveA_decodeB_inv hs hstep hform _) rfl h
    · exact cycleExecute_inv (State.resolveA_execute_inv hs hstep _) rfl h

theorem baseCost_pos (i : Instr) : 1 ≤ baseCost i := by
  cases i <;> simp [baseCost]

/-- FETCH up to the split of the word; no latch is set at a boundary (40 R132). -/
theorem State.latchWord_inv {s : State} (hs : s.Inv) (hstep : s.scratch.step = .fetch) (w : Word) :
    (s.nextWord.after.latchWord w).Inv := by
  obtain ⟨hmem, hlatches⟩ := (State.inv_fetch_iff hstep).mp hs
  exact (State.inv_fetch_iff (s := s.nextWord.after.latchWord w) hstep).mpr
    ⟨hmem.nextWord.of_eq rfl rfl rfl, hlatches⟩

/-- The instruction in flight after FETCH is the decoded one (40 R132, R133). -/
theorem inFlight_latchWord (s : State) (w : Word) (cost : Nat) :
    inFlight ((s.latchWord w).startInstr cost) = decode w := rfl

/-- The end of FETCH for a legal word (40 R132, R133). -/
theorem State.startInstr_inv {s : State} (hmem : s.MemoryWf) {w : Word} {i : Instr} (hi : decode w = .ok i) :
    ((s.latchWord w).startInstr (baseCost i)).Inv := by
  refine State.inv_of_decodeA rfl (hmem.of_eq rfl rfl rfl) (baseCost_pos i) ?_ rfl rfl
  simp only [State.legalInFlight, inFlight_latchWord, hi]

theorem cycleFetch_inv {s t : State} (hs : s.Inv) (hstep : s.scratch.step = .fetch)
    (h : cycleFetch s = .next t) : t.Inv := by
  simp only [cycleFetch] at h
  split at h
  · next i hi => exact cycleDecodeA_inv (State.startInstr_inv (s.inv_iff.mp hs).1.nextWord hi) rfl h
  · next bad _ =>
    cases h
    exact State.raise_inv (State.latchWord_inv hs hstep _) (.opcode bad.form bad.code)

/-- Every clock cycle keeps the invariant (40 R130 to R132). -/
theorem stepCycle_inv {s t : State} (hs : s.Inv) (h : stepCycle s = .next t) : t.Inv := by
  unfold stepCycle at h
  split at h
  · cases h; exact hs
  · split at h
    · next hstep => exact cycleFetch_inv hs hstep h
    · next hstep => exact cycleDecodeA_inv hs hstep h
    · next hstep => exact cycleDecodeB_inv hs hstep h
    · next hstep => exact cycleExecute_inv hs hstep h

theorem driverCycle_inv {s t : State} (hs : s.Inv) (h : driverCycle s = .next t) : t.Inv := by
  unfold driverCycle at h
  split at h
  · cases h; exact hs
  · split at h
    · next hu => cases h; exact State.afterCycle_inv (stepCycle_inv hs hu)
    · cases h
    · cases h

theorem runToBoundary_inv {fuel : Nat} {s t : State} (hs : s.Inv) (h : runToBoundary fuel s = .next t) : t.Inv := by
  induction fuel generalizing s with
  | zero => cases h; exact hs
  | succ n ih =>
    unfold runToBoundary at h
    split at h
    · cases h; exact hs
    · split at h
      · next hu => exact ih (driverCycle_inv hs hu) h
      · cases h
      · cases h

/-! ### A whole instruction keeps the invariant -/

/-- The state in which an instruction performs, basic or special (40 R132, R144). -/
def atCompletion (i : Instr) (s : State) : State :=
  match i.operands with
  | (some b, a) => basicAtCompletion (baseCost i) b a s
  | (none, a) => specialAtCompletion (baseCost i) a s

/-- Every instruction's meaning is what it performs, settled to the boundary (40 R145). -/
theorem exec_eq_settle (i : Instr) (s : State) : exec i s = settle (performInstr i (atCompletion i s)) := by
  cases i <;> rfl

/-- Where an instruction performs, the machine is at a boundary in the invariant's sense (40 R132; log entry 5). -/
theorem atCompletion_inv {s : State} (i : Instr) (hmem : s.MemoryWf) :
    (atCompletion i s).Inv ∧ (atCompletion i s).scratch.step = .fetch := by
  unfold atCompletion
  split
  · next b a _ =>
    obtain ⟨hstep, hrem, hlatches⟩ := basicAtCompletion_scratch (baseCost i) (baseCost_pos i) b a s
    exact ⟨(State.inv_fetch_iff hstep).mpr ⟨hmem.basicAtCompletion _ b a, hrem.ge, hlatches⟩, hstep⟩
  · next a _ =>
    obtain ⟨hstep, hrem, hlatches⟩ := specialAtCompletion_scratch (baseCost i) (baseCost_pos i) a s
    exact ⟨(State.inv_fetch_iff hstep).mpr ⟨hmem.specialAtCompletion _ a, hrem.ge, hlatches⟩, hstep⟩

/-- The cycles of a skip end at a boundary (43 R251). -/
theorem runSkip_startSkip_inv {s : State} (h : s.Inv) (hstep : s.scratch.step = .fetch) (p : Word) {k : Nat}
    (hk : 1 ≤ k) : (runSkip (s.startSkip p k)).Inv := by
  obtain ⟨hmem, -, hdelayed, -⟩ := (State.inv_fetch_iff hstep).mp h
  obtain ⟨-, -, hend, -, -⟩ := runSkip_spec (s.startSkip p k) hk
  have hmem' : (s.startSkip p k).MemoryWf := hmem.of_eq rfl rfl rfl
  refine (State.inv_fetch_iff (by rw [hend])).mpr ⟨hmem'.runSkip, ?_⟩
  rw [hend]
  exact ⟨le_refl 1, hdelayed, rfl⟩

theorem settle_inv {s t : State} {c : Completion} (hc : c.Keeps s) (hs : s.Inv) (hstep : s.scratch.step = .fetch)
    (h : settle c = .next t) : t.Inv := by
  cases c with
  | finished u => cases h; exact State.endCycle_inv (State.KeepsWf.inv hc hs)
  | raised e u => cases h; exact State.raise_inv (State.KeepsWf.inv hc hs) e
  | skipping u =>
    cases h
    obtain ⟨v, p, k, hv, hk, rfl⟩ := hc
    exact runSkip_startSkip_inv (hv.inv hs) (hv.scratch ▸ hstep) p hk
  | stuck => cases h

theorem exec_inv {i : Instr} {s t : State} (hs : s.Inv) (h : exec i s = .next t) : t.Inv := by
  obtain ⟨hinv, hstep⟩ := atCompletion_inv i ((State.inv_iff s).mp hs).1
  rw [exec_eq_settle] at h
  exact settle_inv (performInstr_keeps i _) hinv hstep h

theorem fetchAndRun_inv {s t : State} (hs : s.Inv) (hstep : s.scratch.step = .fetch)
    (h : fetchAndRun s = .next t) : t.Inv := by
  have hlatched := State.latchWord_inv hs hstep s.nextWord.value
  simp only [fetchAndRun] at h
  split at h
  · exact exec_inv hlatched h
  · next bad _ => cases h; exact State.raise_inv hlatched (.opcode bad.form bad.code)

end Sys2Proof.Machine

namespace Sys2Proof.Proofs

open Sys2Proof.Machine

/-- Settles O49: a latched error freezes the state, at a boundary one instruction runs whole, and inside an instruction its
remaining cycles run, each of which keeps the invariant. -/
theorem everyStepKeepsTheInvariants : Obligations.EveryStepKeepsTheInvariants := by
  intro s t hs h
  unfold step at h
  split at h
  · cases h; exact hs
  · split at h
    · next hboundary => exact fetchAndRun_inv hs (of_decide_eq_true hboundary) h
    · exact runToBoundary_inv hs h

/-- Settles O47: the fields of `State.reset` hold these values, and an empty list of cells reads 0 everywhere. -/
theorem resetLeavesTheSpecValues : Obligations.ResetLeavesTheSpecValues := by
  have hregs : ∀ q, State.reset.get q = 0 := fun q => by cases q <;> rfl
  exact ⟨hregs, rfl, rfl, rfl, rfl, fun _ => rfl, rfl, rfl⟩

/-- Settles O48: the lists of the reset state are empty, and its scratch is that of a boundary with no latch set. -/
theorem resetSatisfiesTheInvariants : Obligations.ResetSatisfiesTheInvariants := by
  have hprot : protWf State.reset.prot := ⟨.nil, List.forall_mem_nil _⟩
  have hmmap : mmapWf State.reset.mmap := ⟨.nil, List.forall_mem_nil _⟩
  exact (State.inv_fetch_iff rfl).mpr ⟨⟨reset_backing_wf, hprot, hmmap⟩, le_refl 1, rfl, rfl⟩

end Sys2Proof.Proofs
end

section
/-! PROOFS. The protected list and the mapped list as the host changes them (spec 20 R57 to R63), and a store
through the router (20 R52 to R54). A well-formed protected list is told from its addresses alone (`protWf.ext`), so the
law of 20 R62 on lists follows from the one on sets. -/

namespace Sys2Proof.Machine

/-! ### Regions as sets of addresses -/

theorem Region.contains_iff (r : Region) (ad : Nat) : r.contains ad = true ↔ r.start ≤ ad ∧ ad < r.finish := by
  simp [Region.contains, Region.finish]

theorem MapRegion.contains_iff (r : MapRegion) (ad : Nat) :
    r.contains ad = true ↔ r.start ≤ ad ∧ ad < r.start + r.length := by
  simp [MapRegion.contains]

theorem Region.start_lt_finish_iff (r : Region) : r.start < r.finish ↔ 0 < r.length := by
  simp [Region.finish]

theorem Region.start_le_finish (r : Region) : r.start ≤ r.finish := Nat.le_add_right r.start r.length

/-- A region is its two ends. -/
theorem Region.ext_of_finish {r r' : Region} (hs : r.start = r'.start) (hf : r.finish = r'.finish) : r = r' := by
  cases r; cases r'
  simp only [Region.finish] at hs hf
  simp only [Region.mk.injEq]
  omega

theorem isProtected_cons (r : Region) (rs : List Region) (ad : Nat) :
    isProtected (r :: rs) ad = (r.contains ad || isProtected rs ad) := rfl

theorem isProtected_iff (prot : List Region) (ad : Nat) :
    isProtected prot ad = true ↔ ∃ r ∈ prot, r.start ≤ ad ∧ ad < r.finish := by
  simp [isProtected, List.any_eq_true, Region.contains_iff]

@[simp] theorem Region.union_start (r other : Region) : (r.union other).start = min r.start other.start := rfl

@[simp] theorem Region.union_finish (r other : Region) : (r.union other).finish = max r.finish other.finish := by
  have := r.start_le_finish
  simp only [Region.finish, Region.union] at this ⊢
  omega

/-- The union of regions that touch or overlap holds the addresses of both and no other (20 R51). -/
theorem Region.contains_union {r other : Region} (h : other.start ≤ r.finish) (h' : r.start ≤ other.finish) (ad : Nat) :
    (r.union other).contains ad = (r.contains ad || other.contains ad) := by
  have := r.start_le_finish
  have := other.start_le_finish
  rw [Bool.eq_iff_iff, Bool.or_eq_true]
  simp only [Region.contains_iff, Region.union_start, Region.union_finish]
  omega

/-! ### The one list form of the protected set -/

/-- The protected list is well formed by its head, the gap after it, and its tail (10 R35). -/
theorem protWf_cons (r : Region) (rs : List Region) :
    protWf (r :: rs) ↔
      (0 < r.length ∧ r.finish ≤ Config.memorySize) ∧ (∀ later ∈ rs, r.finish < later.start) ∧ protWf rs := by
  simp only [protWf, List.pairwise_cons, List.forall_mem_cons]
  tauto

/-- Every protected address past the head lies beyond a gap. -/
theorem finish_lt_of_isProtected {r : Region} {rs : List Region} (hgap : ∀ later ∈ rs, r.finish < later.start) {ad : Nat}
    (h : isProtected rs ad = true) : r.finish < ad := by
  obtain ⟨later, hmem, hle, -⟩ := (isProtected_iff rs ad).mp h
  exact (hgap later hmem).trans_le hle

/-- The head's start is the least protected address. -/
theorem start_le_of_isProtected {r : Region} {rs : List Region} (h : protWf (r :: rs)) {ad : Nat}
    (hp : isProtected (r :: rs) ad = true) : r.start ≤ ad := by
  obtain ⟨-, hgap, -⟩ := (protWf_cons r rs).mp h
  rw [isProtected_cons, Bool.or_eq_true, Region.contains_iff] at hp
  rcases hp with ⟨hle, -⟩ | hp
  · exact hle
  · exact r.start_le_finish.trans (finish_lt_of_isProtected hgap hp).le

theorem isProtected_start {r : Region} {rs : List Region} (h : protWf (r :: rs)) : isProtected (r :: rs) r.start = true := by
  obtain ⟨⟨hpos, -⟩, -, -⟩ := (protWf_cons r rs).mp h
  exact (isProtected_iff _ _).mpr ⟨r, List.mem_cons_self, le_refl _, r.start_lt_finish_iff.mpr hpos⟩

/-- The head's end is not protected: the next region does not touch it. -/
theorem isProtected_finish {r : Region} {rs : List Region} (h : protWf (r :: rs)) :
    isProtected (r :: rs) r.finish = false := by
  obtain ⟨-, hgap, -⟩ := (protWf_cons r rs).mp h
  rw [Bool.eq_false_iff, isProtected_cons, ne_eq, Bool.or_eq_true, Region.contains_iff]
  rintro (⟨-, hlt⟩ | hp)
  · exact lt_irrefl _ hlt
  · exact lt_irrefl _ (finish_lt_of_isProtected hgap hp)

/-- A head's end is the first free address after its start, so of two heads with one start neither ends first. -/
theorem finish_le_of_isProtected_eq {r r' : Region} {rs rs' : List Region} (h : protWf (r :: rs))
    (hs : r.start = r'.start) (heq : ∀ ad, isProtected (r :: rs) ad = isProtected (r' :: rs') ad) :
    r'.finish ≤ r.finish := by
  by_contra hlt
  have hfree : isProtected (r' :: rs') r.finish = false := by rw [← heq]; exact isProtected_finish h
  have hheld : isProtected (r' :: rs') r.finish = true :=
    (isProtected_iff _ _).mpr ⟨r', List.mem_cons_self, hs ▸ r.start_le_finish, not_le.mp hlt⟩
  simp [hfree] at hheld

/-- The tail holds the protected addresses past the head's end. -/
theorem isProtected_tail {r : Region} {rs : List Region} (h : protWf (r :: rs)) (ad : Nat) :
    isProtected rs ad = (isProtected (r :: rs) ad && decide (r.finish < ad)) := by
  obtain ⟨-, hgap, -⟩ := (protWf_cons r rs).mp h
  rw [Bool.eq_iff_iff, Bool.and_eq_true, isProtected_cons, Bool.or_eq_true, Region.contains_iff, decide_eq_true_eq]
  constructor
  · exact fun hp => ⟨.inr hp, finish_lt_of_isProtected hgap hp⟩
  · rintro ⟨⟨-, hlt⟩ | hp, hgt⟩
    · exact absurd hlt hgt.not_gt
    · exact hp

/-- There is one well-formed list for a set of addresses: the list of its maximal regions (10 R35). -/
theorem protWf.ext {prot prot' : List Region} (h : protWf prot) (h' : protWf prot')
    (heq : ∀ ad, isProtected prot ad = isProtected prot' ad) : prot = prot' := by
  induction prot generalizing prot' with
  | nil =>
    cases prot' with
    | nil => rfl
    | cons r' rs' => exact absurd ((heq r'.start).trans (isProtected_start h')) Bool.false_ne_true
  | cons r rs ih =>
    cases prot' with
    | nil => exact absurd ((heq r.start).symm.trans (isProtected_start h)) Bool.false_ne_true
    | cons r' rs' =>
      have hstart : r.start = r'.start := le_antisymm
        (start_le_of_isProtected h ((heq _).trans (isProtected_start h')))
        (start_le_of_isProtected h' ((heq _).symm.trans (isProtected_start h)))
      have hfinish : r.finish = r'.finish := le_antisymm
        (finish_le_of_isProtected_eq h' hstart.symm fun ad => (heq ad).symm)
        (finish_le_of_isProtected_eq h hstart heq)
      obtain rfl := Region.ext_of_finish hstart hfinish
      obtain ⟨-, -, hrs⟩ := (protWf_cons r rs).mp h
      obtain ⟨-, -, hrs'⟩ := (protWf_cons r rs').mp h'
      have htail : ∀ ad, isProtected rs ad = isProtected rs' ad := fun ad => by
        rw [isProtected_tail h, isProtected_tail h', heq]
      rw [ih hrs hrs' htail]

/-! ### Adding a range -/

/-- Adding a range protects its addresses and no other (20 R60). -/
theorem isProtected_protectAdd (new : Region) (prot : List Region) (ad : Nat) :
    isProtected (protectAdd new prot) ad = (new.contains ad || isProtected prot ad) := by
  induction prot generalizing new with
  | nil => rfl
  | cons r rs ih =>
    simp only [protectAdd]
    split
    · rfl
    · next hright =>
      split
      · rw [isProtected_cons, ih, isProtected_cons, Bool.or_left_comm]
      · next hleft =>
        rw [ih, Region.contains_union (not_lt.mp hright) (not_lt.mp hleft), isProtected_cons, Bool.or_assoc]

/-- What lies before the range and before every region lies before every region of the result. -/
theorem lt_start_of_mem_protectAdd {bound : Nat} {new g : Region} {prot : List Region} (hnew : bound < new.start)
    (hprot : ∀ r ∈ prot, bound < r.start) (hg : g ∈ protectAdd new prot) : bound < g.start := by
  induction prot generalizing new with
  | nil => exact List.mem_singleton.mp hg ▸ hnew
  | cons r rs ih =>
    obtain ⟨hr, hrs⟩ := List.forall_mem_cons.mp hprot
    simp only [protectAdd] at hg
    split at hg
    · rcases List.mem_cons.mp hg with rfl | hg
      · exact hnew
      · exact hprot g hg
    · split at hg
      · rcases List.mem_cons.mp hg with rfl | hg
        · exact hr
        · exact ih hnew hrs hg
      · exact ih (lt_min hnew hr) hrs hg

/-- Adding a range that is not empty and lies inside the address space keeps the list of maximal regions (20 R60). -/
theorem protectAdd_wf {new : Region} {prot : List Region} (hpos : 0 < new.length)
    (hfits : new.finish ≤ Config.memorySize) (h : protWf prot) : protWf (protectAdd new prot) := by
  induction prot generalizing new with
  | nil => exact (protWf_cons new []).mpr ⟨⟨hpos, hfits⟩, List.forall_mem_nil _, h⟩
  | cons r rs ih =>
    obtain ⟨⟨hrpos, hrfits⟩, hgap, hrs⟩ := (protWf_cons r rs).mp h
    simp only [protectAdd]
    split
    · next hbefore =>
      have hgapNew : ∀ later ∈ r :: rs, new.finish < later.start := List.forall_mem_cons.mpr
        ⟨hbefore, fun later hl => (hbefore.trans_le r.start_le_finish).trans (hgap later hl)⟩
      exact (protWf_cons new (r :: rs)).mpr ⟨⟨hpos, hfits⟩, hgapNew, h⟩
    · split
      · next hafter =>
        exact (protWf_cons r _).mpr
          ⟨⟨hrpos, hrfits⟩, fun g hg => lt_start_of_mem_protectAdd hafter hgap hg, ih hpos hfits hrs⟩
      · have hunion : 0 < (new.union r).length := by
          rw [← Region.start_lt_finish_iff, Region.union_start, Region.union_finish]
          exact (min_le_left _ _).trans_lt ((new.start_lt_finish_iff.mpr hpos).trans_le (le_max_left _ _))
        exact ih hunion (by rw [Region.union_finish]; exact max_le hfits hrfits) hrs

/-! ### Removing a range -/

/-- What is left of a region when a range goes: itself, or its parts on both sides that are not empty (20 R61). -/
def Region.without (gone r : Region) : List Region :=
  if r.finish ≤ gone.start ∨ gone.finish ≤ r.start then [r]
  else [r.below gone.start, r.above gone.finish].filter (fun part => part.length ≠ 0)

theorem protectRemove_eq (gone : Region) (prot : List Region) : protectRemove gone prot = prot.flatMap gone.without := rfl

/-- What is left of a region is its addresses outside the range (20 R61). -/
theorem isProtected_without (gone r : Region) (ad : Nat) :
    isProtected (gone.without r) ad = (r.contains ad && !gone.contains ad) := by
  rw [Bool.eq_iff_iff, Bool.and_eq_true, Bool.not_eq_true', Bool.eq_false_iff, ne_eq, isProtected_iff,
    Region.contains_iff, Region.contains_iff]
  simp only [Region.without]
  split
  · simp only [List.mem_singleton, exists_eq_left]
    omega
  · simp only [List.mem_filter, List.mem_cons, List.not_mem_nil, or_false, decide_eq_true_eq, ne_eq, and_assoc,
      exists_eq_or_imp, exists_eq_left, Region.below, Region.above, Region.finish]
    omega

/-- A part that is left is not empty and lies within its region. -/
theorem Region.mem_without {gone r part : Region} (hpos : 0 < r.length) (h : part ∈ gone.without r) :
    0 < part.length ∧ r.start ≤ part.start ∧ part.finish ≤ r.finish := by
  simp only [Region.without] at h
  split at h
  · obtain rfl := List.mem_singleton.mp h
    exact ⟨hpos, le_refl _, le_refl _⟩
  · next hover =>
    obtain ⟨hpart, hne⟩ := List.mem_filter.mp h
    have hpartPos : 0 < part.length := Nat.pos_of_ne_zero (of_decide_eq_true hne)
    refine ⟨hpartPos, ?_⟩
    rcases List.mem_pair.mp hpart with rfl | rfl <;>
      simp only [Region.below, Region.above, Region.finish] at hover hpartPos ⊢ <;> omega

/-- A range that is not empty leaves a gap between the parts on its two sides. -/
theorem Region.pairwise_without {gone : Region} (hpos : 0 < gone.length) (r : Region) :
    (gone.without r).Pairwise (fun part later => part.finish < later.start) := by
  simp only [Region.without]
  split
  · exact List.pairwise_singleton _ _
  · next hover =>
    refine List.Pairwise.filter _ (List.pairwise_pair.mpr ?_)
    simp only [Region.below, Region.above, Region.finish] at hover ⊢
    omega

/-- Removing a range frees its addresses and no other (20 R61). -/
theorem isProtected_protectRemove (gone : Region) (prot : List Region) (ad : Nat) :
    isProtected (protectRemove gone prot) ad = (isProtected prot ad && !gone.contains ad) := by
  induction prot with
  | nil => rfl
  | cons r rs ih =>
    rw [protectRemove_eq] at ih ⊢
    rw [List.flatMap_cons, isProtected, List.any_append, ← isProtected, ← isProtected, ih, isProtected_without,
      isProtected_cons, Bool.and_or_distrib_right]

/-- Removing a range that is not empty keeps the list of maximal regions (20 R61). -/
theorem protectRemove_wf {gone : Region} {prot : List Region} (hpos : 0 < gone.length) (h : protWf prot) :
    protWf (protectRemove gone prot) := by
  obtain ⟨hgaps, hregions⟩ := h
  rw [protectRemove_eq]
  constructor
  · refine List.pairwise_flatMap.mpr ⟨fun r _ => Region.pairwise_without hpos r, ?_⟩
    refine hgaps.imp_of_mem fun {r later} hr hlater hgap part hpart part' hpart' => ?_
    obtain ⟨-, -, hfinish⟩ := Region.mem_without (hregions r hr).1 hpart
    obtain ⟨-, hstart, -⟩ := Region.mem_without (hregions later hlater).1 hpart'
    exact (hfinish.trans_lt hgap).trans_le hstart
  · intro part hpart
    obtain ⟨r, hr, hpart⟩ := List.mem_flatMap.mp hpart
    obtain ⟨hrpos, hrfits⟩ := hregions r hr
    obtain ⟨hpartPos, -, hfinish⟩ := Region.mem_without hrpos hpart
    exact ⟨hpartPos, hfinish.trans hrfits⟩

/-! ### `mem_protect` -/

/-- The protected list after `mem_protect` on a range that fits (20 R59). -/
def protAfter (range : Region) (protect : Bool) (prot : List Region) : List Region :=
  if range.length = 0 then prot else if protect then protectAdd range prot else protectRemove range prot

theorem memProtect_of_overrun {s : State} {start : Word} {length : Nat} (protect : Bool)
    (h : 0x10000 < start.toNat + length) : memProtect start length protect s = .error .outOfBounds := if_pos h

/-- On a range that fits, `mem_protect` changes the protected list and nothing else (20 R59). -/
theorem memProtect_of_fits {s : State} {start : Word} {length : Nat} (protect : Bool)
    (h : start.toNat + length ≤ 0x10000) :
    memProtect start length protect s = .ok { s with prot := protAfter ⟨start.toNat, length⟩ protect s.prot } := by
  refine (if_neg (not_lt.mpr h)).trans ?_
  simp only [protAfter]
  split
  · rfl
  · split <;> rfl

theorem protAfter_wf {range : Region} {prot : List Region} (protect : Bool) (hfits : range.finish ≤ Config.memorySize)
    (h : protWf prot) : protWf (protAfter range protect prot) := by
  unfold protAfter
  split
  · exact h
  · next hne =>
    split
    · exact protectAdd_wf (Nat.pos_of_ne_zero hne) hfits h
    · exact protectRemove_wf (Nat.pos_of_ne_zero hne) h

/-- The addresses of the range take the new protection, every other keeps its own (20 R60, R61). -/
theorem isProtected_protAfter (range : Region) (protect : Bool) (prot : List Region) (ad : Nat) :
    isProtected (protAfter range protect prot) ad = if range.contains ad then protect else isProtected prot ad := by
  unfold protAfter
  split
  · next hempty =>
    have hout : range.contains ad = false := by
      rw [Bool.eq_false_iff, ne_eq, Region.contains_iff, Region.finish]
      omega
    rw [hout, if_neg Bool.false_ne_true]
  · cases protect with
    | true =>
      rw [if_pos rfl, isProtected_protectAdd]
      cases range.contains ad <;> rfl
    | false =>
      rw [if_neg Bool.false_ne_true, isProtected_protectRemove]
      cases range.contains ad <;> simp

/-- Protecting and then freeing a range leaves the protected addresses outside it (20 R62). -/
theorem isProtected_protectThenFree (range : Region) (prot : List Region) (ad : Nat) :
    isProtected (protAfter range false (protAfter range true prot)) ad =
      (isProtected prot ad && !range.contains ad) := by
  rw [isProtected_protAfter, isProtected_protAfter]
  cases range.contains ad <;> simp

/-- On a range that was free, that is the list as before (20 R62). -/
theorem protectThenFree_of_free {range : Region} {prot : List Region} (hfits : range.finish ≤ Config.memorySize)
    (h : protWf prot) (hfree : ∀ ad, range.contains ad = true → isProtected prot ad = false) :
    protAfter range false (protAfter range true prot) = prot := by
  refine protWf.ext (protAfter_wf false hfits (protAfter_wf true hfits h)) h fun ad => ?_
  rw [isProtected_protectThenFree]
  cases hc : range.contains ad with
  | true => rw [hfree ad hc, Bool.false_and]
  | false => rw [Bool.not_false, Bool.and_true]

/-! ### `map_region` and `unmap_region` -/

/-- Two ranges share an address exactly when some address lies in both (20 R57). -/
theorem sharesAddress_iff (start length : Nat) (r : MapRegion) :
    sharesAddress start length r.start r.length = true ↔
      ∃ ad, r.contains ad = true ∧ start ≤ ad ∧ ad < start + length := by
  simp only [sharesAddress, decide_eq_true_eq, MapRegion.contains_iff]
  constructor
  · exact fun h => ⟨max start r.start, by omega⟩
  · rintro ⟨ad, h⟩
    omega

theorem mem_insertRegion {new g : MapRegion} {mm : List MapRegion} : g ∈ insertRegion new mm ↔ g = new ∨ g ∈ mm := by
  induction mm with
  | nil => exact List.mem_cons
  | cons r rs ih =>
    simp only [insertRegion]
    split
    · exact List.mem_cons
    · rw [List.mem_cons, ih, List.mem_cons, or_left_comm]

/-- Inserting a region keeps the ascending order of the starts (20 R57). -/
theorem insertRegion_ascending {mm : List MapRegion} (new : MapRegion)
    (h : mm.Pairwise (fun g later => g.start ≤ later.start)) :
    (insertRegion new mm).Pairwise (fun g later => g.start ≤ later.start) := by
  induction mm with
  | nil => exact List.pairwise_singleton _ _
  | cons r rs ih =>
    obtain ⟨hr, hrs⟩ := List.pairwise_cons.mp h
    simp only [insertRegion]
    split
    · next hle =>
      exact List.pairwise_cons.mpr
        ⟨List.forall_mem_cons.mpr ⟨hle, fun later hl => hle.trans (hr later hl)⟩, h⟩
    · next hgt =>
      refine List.pairwise_cons.mpr ⟨fun later hl => ?_, ih hrs⟩
      rcases mem_insertRegion.mp hl with rfl | hl
      · exact (not_le.mp hgt).le
      · exact hr later hl

/-- The inserted region is the first of its start, so it is the one taken out again (20 R63). -/
theorem removeRegion_insertRegion (new : MapRegion) (mm : List MapRegion) :
    removeRegion new.start new.length (insertRegion new mm) = some mm := by
  induction mm with
  | nil => exact if_pos ⟨rfl, rfl⟩
  | cons r rs ih =>
    simp only [insertRegion]
    split
    · exact if_pos ⟨rfl, rfl⟩
    · next hgt =>
      have hother : ¬ (r.start = new.start ∧ r.length = new.length) := fun h => hgt h.1.ge
      simp only [removeRegion, if_neg hother, ih]

/-- An address of the inserted region and of no old one is answered by the inserted region (20 R52). -/
theorem regionAt_insertRegion {new : MapRegion} {mm : List MapRegion} {ad : Nat} (hnew : new.contains ad = true)
    (hmm : ∀ r ∈ mm, ¬ r.contains ad = true) : regionAt (insertRegion new mm) ad = some new := by
  induction mm with
  | nil => exact (regionAt_cons new [] ad).trans (if_pos hnew)
  | cons r rs ih =>
    obtain ⟨hr, hrs⟩ := List.forall_mem_cons.mp hmm
    simp only [insertRegion]
    split
    · exact (regionAt_cons new (r :: rs) ad).trans (if_pos hnew)
    · rw [regionAt_cons, if_neg hr, ih hrs]

theorem mapRegion_of_overrun {s : State} {start : Word} {length : Nat} (dev : Device)
    (h : 0x10000 < start.toNat + length) : mapRegion start length dev s = .error .outOfBounds := if_pos h

theorem mapRegion_of_conflict {s : State} {start : Word} {length : Nat} (dev : Device)
    (hfits : start.toNat + length ≤ 0x10000)
    (h : ∃ r ∈ s.mmap, ∃ ad, r.contains ad = true ∧ start.toNat ≤ ad ∧ ad < start.toNat + length) :
    mapRegion start length dev s = .error .regionConflict := by
  have hconflict : s.mmap.any (fun r => sharesAddress start.toNat length r.start r.length) = true := by
    simpa only [List.any_eq_true, sharesAddress_iff] using h
  exact (if_neg (not_lt.mpr hfits)).trans (if_pos hconflict)

theorem mapRegion_of_free {s : State} {start : Word} {length : Nat} (dev : Device)
    (hfits : start.toNat + length ≤ 0x10000)
    (h : ∀ r ∈ s.mmap, ∀ ad, r.contains ad = true → ¬ (start.toNat ≤ ad ∧ ad < start.toNat + length)) :
    mapRegion start length dev s = .ok { s with mmap := insertRegion ⟨start.toNat, length, dev⟩ s.mmap } := by
  have hfree : ¬ s.mmap.any (fun r => sharesAddress start.toNat length r.start r.length) = true := by
    simpa only [List.any_eq_true, sharesAddress_iff, not_exists, not_and] using h
  exact (if_neg (not_lt.mpr hfits)).trans (if_neg hfree)

/-- Unmapping the range right after the region was inserted restores the state (20 R63). -/
theorem unmapRegion_insertRegion (s : State) (start : Word) (length : Nat) (dev : Device) :
    unmapRegion start length { s with mmap := insertRegion ⟨start.toNat, length, dev⟩ s.mmap } = .ok s := by
  have h := removeRegion_insertRegion ⟨start.toNat, length, dev⟩ s.mmap
  simp only at h
  simp only [unmapRegion, h]

/-! ### A store through the router -/

theorem contains_of_regionAt {mm : List MapRegion} {ad : Nat} {g : MapRegion} (h : regionAt mm ad = some g) :
    g.contains ad = true := List.find?_some (p := fun r => MapRegion.contains r ad) h

/-- A change of the device at `ad`, which `g` answers, is seen at the addresses that `g` answers and nowhere else. -/
theorem regionAt_updateRegion {ad : Nat} (change : Nat → Device → Device) {mm : List MapRegion} {g : MapRegion}
    (hg : regionAt mm ad = some g) (q : Nat) :
    regionAt (updateRegion ad change mm) q =
      if regionAt mm q = some g then some { g with dev := change (ad - g.start) g.dev } else regionAt mm q := by
  induction mm with
  | nil => cases hg
  | cons r rs ih =>
    rw [regionAt_cons] at hg
    simp only [updateRegion]
    split at hg
    · next had =>
      obtain rfl : r = g := Option.some.inj hg
      have hcontains : MapRegion.contains { r with dev := change (ad - r.start) r.dev } q = r.contains q := rfl
      rw [if_pos had, regionAt_cons, regionAt_cons, hcontains]
      by_cases hq : r.contains q = true
      · simp only [if_pos hq, if_true]
      · have hother : regionAt rs q ≠ some r := fun h => hq (contains_of_regionAt h)
        simp only [if_neg hq, if_neg hother]
    · next had =>
      rw [if_neg had, regionAt_cons, regionAt_cons]
      by_cases hq : r.contains q = true
      · have hother : some r ≠ some g := fun h => had (Option.some.inj h ▸ contains_of_regionAt hg)
        simp only [if_pos hq, if_neg hother]
      · simp only [if_neg hq, ih hg]

/-- The state after a store that a device took (20 R53). -/
def State.storedInDevice (s : State) (ad v : Word) : State :=
  { s with mmap := updateRegion ad.toNat (fun offset d => d.afterStore offset v) s.mmap }

theorem State.loadValue_of_regionAt {s : State} {ad : Word} {g : MapRegion} (h : regionAt s.mmap ad.toNat = some g) :
    s.loadValue ad = g.dev.loadValue s.polls (ad.toNat - g.start) := by
  simp only [State.loadValue, h]

theorem State.loadValue_of_unmapped {s : State} {ad : Word} (h : s.isMapped ad = false) :
    s.loadValue ad = WordMem.read s.backing ad.toNat := by
  have hnone : regionAt s.mmap ad.toNat = none := by simpa [State.isMapped] using h
  simp only [State.loadValue, hnone]

/-- A mapped region takes the store before protection is looked at (20 R53, R54). -/
theorem State.store_of_mapped {s : State} {ad : Word} (v : Word) (h : s.isMapped ad = true) :
    s.store ad v = .ok (s.storedInDevice ad v) := if_pos h

theorem State.store_of_protected {s : State} {ad : Word} (v : Word) (hm : s.isMapped ad = false)
    (hp : isProtected s.prot ad.toNat = true) : s.store ad v = .raised (.protection ad) s :=
  s.store_of_refused ad v (by rw [State.storeRefused, hm, hp]; rfl)

theorem State.store_of_free {s : State} {ad : Word} (v : Word) (hm : s.isMapped ad = false)
    (hp : isProtected s.prot ad.toNat = false) :
    s.store ad v = .ok { s with backing := WordMem.write s.backing ad.toNat v } := by
  rw [s.store_of_accepted ad v (by rw [State.storeRefused, hm, hp]; rfl), hm, if_neg Bool.false_ne_true]

/-- A word that the device keeps is what its address answers after the store, and every other address answers as before
(20 R52, 60 R314, R315). -/
theorem State.loadValue_storedInDevice {s : State} {ad v : Word} {g : MapRegion}
    (hg : regionAt s.mmap ad.toNat = some g) (hkeeps : g.dev.keepsWord (ad.toNat - g.start) = true) (q : Word) :
    (s.storedInDevice ad v).loadValue q = if q = ad then v else s.loadValue q := by
  have hlookup := regionAt_updateRegion (fun offset d => d.afterStore offset v) hg q.toNat
  by_cases hq : regionAt s.mmap q.toNat = some g
  · rw [if_pos hq] at hlookup
    obtain ⟨had, -⟩ := (MapRegion.contains_iff g _).mp (contains_of_regionAt hg)
    obtain ⟨hqle, -⟩ := (MapRegion.contains_iff g _).mp (contains_of_regionAt hq)
    have hoffset : q.toNat - g.start = ad.toNat - g.start ↔ q = ad := by
      rw [← BitVec.toNat_inj]
      omega
    rw [State.loadValue_of_regionAt (s := s.storedInDevice ad v) hlookup, State.loadValue_of_regionAt hq]
    simp only [Device.loadValue_afterStore _ _ _ _ v hkeeps, hoffset]
    rfl
  · rw [if_neg hq] at hlookup
    have hne : q ≠ ad := fun h => hq (h ▸ hg)
    rw [if_neg hne]
    simp only [State.loadValue, State.storedInDevice, hlookup]

/-- A video device and a keyboard just mapped read 0 at every offset (60 R314, R316; log entry 12 past the ring). -/
theorem Device.loadValue_fresh (polls offset : Nat) :
    Device.freshVideo.loadValue polls offset = 0 ∧ Device.freshKeyboard.loadValue polls offset = 0 := by
  refine ⟨rfl, ?_⟩
  simp only [Device.freshKeyboard, Device.loadValue, Vector.getElem?_replicate]
  split <;> rfl

end Sys2Proof.Machine

namespace Sys2Proof.Proofs

open Sys2Proof.Machine

/-- Settles O57: `map_region` has three outcomes, and what it inserts is the first region of its start. -/
theorem mapThenUnmapRestoresTheMap : Obligations.MapThenUnmapRestoresTheMap := by
  intro s start length dev
  refine ⟨mapRegion_of_overrun dev, mapRegion_of_conflict dev, fun hfits hfree => ?_⟩
  refine ⟨_, mapRegion_of_free dev hfits hfree, unmapRegion_insertRegion s start length dev, rfl,
    fun g => mem_insertRegion, insertRegion_ascending _, fun ad hle hlt => ?_⟩
  exact regionAt_insertRegion ((MapRegion.contains_iff _ ad).mpr ⟨hle, hlt⟩)
    fun r hr hc => hfree r hr ad hc ⟨hle, hlt⟩

/-- Settles O55: on a range that fits, the new list is well formed and is told from the old one address by address. -/
theorem protectAddsAndRemovesTheRange : Obligations.ProtectAddsAndRemovesTheRange := by
  intro s start length protect hwf
  refine ⟨memProtect_of_overrun protect, fun hfits => ?_⟩
  refine ⟨_, memProtect_of_fits protect hfits, protAfter_wf protect hfits hwf, rfl, fun hzero => ?_, fun ad => ?_⟩
  · simp only [protAfter, if_pos hzero]
  · simp only [isProtected_protAfter, Region.contains_iff, Region.finish]

/-- Settles O56: the pair of calls frees the range and keeps every other address, and on a free range that is the old set,
hence the old list. -/
theorem protectThenUnprotectRestoresTheList : Obligations.ProtectThenUnprotectRestoresTheList := by
  intro s t start length hwf ht
  have hfits : start.toNat + length ≤ 0x10000 := by
    by_contra hover
    rw [memProtect_of_overrun true (not_le.mp hover)] at ht
    cases ht
  rw [memProtect_of_fits true hfits] at ht
  cases ht
  refine ⟨_, memProtect_of_fits false hfits, fun hfree => ?_, fun ⟨ad, hle, hlt, hprot⟩ => ?_⟩
  · have hrestored := protectThenFree_of_free (range := ⟨start.toNat, length⟩) hfits hwf fun ad hc =>
      hfree ad ((Region.contains_iff _ ad).mp hc).1 ((Region.contains_iff _ ad).mp hc).2
    simp only [hrestored]
  · have hafter := isProtected_protectThenFree ⟨start.toNat, length⟩ s.prot
    refine ⟨fun hsame => ?_, hafter⟩
    have hfreed := hafter ad
    rw [(Region.contains_iff ⟨start.toNat, length⟩ ad).mpr ⟨hle, hlt⟩, Bool.not_true, Bool.and_false] at hfreed
    rw [← hsame] at hprot
    exact absurd (hfreed.symm.trans hprot) Bool.false_ne_true

/-- Settles O52: the region that answers the address takes the store, and only without one do protection and the backing
store come in. -/
theorem routerLoadsAndStores : Obligations.RouterLoadsAndStores := by
  intro s ad v
  refine ⟨State.loadValue_of_unmapped, fun g hg => ⟨State.loadValue_of_regionAt hg, ?_⟩, Device.loadValue_fresh,
    State.store_of_protected v,
    fun hm hp => ⟨_, State.store_of_free v hm hp, rfl, WordMem.read_write s.backing ad.toNat v⟩⟩
  have hmapped : s.isMapped ad = true := by rw [State.isMapped, hg]; rfl
  have hlookup := regionAt_updateRegion (fun offset d => d.afterStore offset v) hg
  refine ⟨_, State.store_of_mapped v hmapped, rfl, (hlookup _).trans (if_pos hg), fun q hq => ?_, fun hkeeps => ?_, ?_⟩
  · have hother : regionAt s.mmap q ≠ some g := fun h => Bool.false_ne_true (hq.symm.trans (contains_of_regionAt h))
    exact (hlookup q).trans (if_neg hother)
  · have hload := State.loadValue_storedInDevice (v := v) hg hkeeps
    exact ⟨(hload ad).trans (if_pos rfl), fun q hne => (hload q).trans (if_neg hne)⟩
  · rintro ring cursor accepted hdev
    rw [hdev]
    exact ⟨_, rfl⟩

end Sys2Proof.Proofs
end

section
/-! PROOFS. The decoder and the encoder (spec 30 R90 to R107): each row of the opcode maps read in both directions,
which words have no row, the length told from a word, and what FETCH does with a word that has no row (40 R133). -/

namespace Sys2Proof

/-! ### The rows of the opcode maps -/

/-- What the basic map answers for a code has the operands it was given and is encoded with that code (30 R98). -/
theorem encode_of_decodeBasic {o : BitVec 5} {b a : Operand} {i : Instr} (h : decodeBasic o b a = .ok i) :
    i.operands = (some b, a) ∧ encode i = encodeBasic o b a := by
  unfold decodeBasic at h
  split at h <;> cases h
  all_goals
    next hcode =>
    exact ⟨rfl, congrArg (encodeBasic · b a) (BitVec.eq_of_toNat_eq hcode.symm)⟩

/-- What the special map answers for a code has the operand it was given and is encoded with that code (30 R99). -/
theorem encode_of_decodeSpecial {code : BitVec 5} {a : Operand} {i : Instr} (h : decodeSpecial code a = .ok i) :
    i.operands = (none, a) ∧ encode i = encodeSpecial code a := by
  unfold decodeSpecial at h
  split at h <;> cases h
  all_goals
    next hcode =>
    exact ⟨rfl, congrArg (encodeSpecial · a) (BitVec.eq_of_toNat_eq hcode.symm)⟩

/-- An instruction with two operands has a row in the basic map, whose code is not the 0 that marks a special one
(30 R91, R98). -/
theorem exists_basicCode {i : Instr} {b a : Operand} (h : i.operands = (some b, a)) :
    ∃ o : BitVec 5, o ≠ 0 ∧ encode i = encodeBasic o b a ∧ decodeBasic o b a = .ok i := by
  cases i <;> cases h <;> exact ⟨_, by decide, rfl, rfl⟩

/-- An instruction with one operand has a row in the special map (30 R91, R99). -/
theorem exists_specialCode {i : Instr} {a : Operand} (h : i.operands = (none, a)) :
    ∃ code : BitVec 5, encode i = encodeSpecial code a ∧ decodeSpecial code a = .ok i := by
  cases i <;> cases h <;> exact ⟨_, rfl, rfl⟩

/-! ### Decoding and encoding undo each other -/

theorem Instr.wf_of_basic {i : Instr} {b a : Operand} (h : i.operands = (some b, a)) :
    i.wf = true ↔ b.okB = true ∧ a.okA = true := by
  simp [Instr.wf, h]

theorem Instr.wf_of_special {i : Instr} {a : Operand} (h : i.operands = (none, a)) :
    i.wf = true ↔ a.okA = true := by
  simp [Instr.wf, h]

theorem decode_encode {i : Instr} (hwf : i.wf = true) : decode (encode i) = .ok i := by
  cases hops : i.operands with
  | mk dest a =>
    cases dest with
    | some b =>
      obtain ⟨hb, ha⟩ := (Instr.wf_of_basic hops).mp hwf
      obtain ⟨o, ho, henc, hrow⟩ := exists_basicCode hops
      rw [henc, decode_encodeBasic o ho b a hb ha, hrow]
    | none =>
      obtain ⟨code, henc, hrow⟩ := exists_specialCode hops
      rw [henc, decode_encodeSpecial code a ((Instr.wf_of_special hops).mp hwf), hrow]

/-- A word with a nonzero field o is read through the basic map (30 R91). -/
theorem decode_of_basic {w : Word} (ho : fieldO w ≠ 0) :
    decode w = decodeBasic (fieldO w) (operandB (fieldB w)) (operandA (fieldA w)) := by
  simp only [decode, formOf, opOf, if_neg ho, decodeFields]

/-- A word with a field o of 0 is read through the special map (30 R91). -/
theorem decode_of_special {w : Word} (ho : fieldO w = 0) :
    decode w = decodeSpecial (fieldB w) (operandA (fieldA w)) := by
  simp only [decode, formOf, opOf, if_pos ho, decodeFields]

/-- The word of a basic instruction over the operands of two fields is the word with these fields (30 R90). -/
theorem encodeBasic_fields (w : Word) :
    encodeBasic (fieldO w) (operandB (fieldB w)) (operandA (fieldA w)) = w := by
  rw [encodeBasic, (classA_operandA (fieldA w)).1, (low_operandB (fieldB w)).1, packWord_fields]

/-- The same for a special instruction, whose field o is 0 (30 R90, R91). -/
theorem encodeSpecial_fields {w : Word} (ho : fieldO w = 0) :
    encodeSpecial (fieldB w) (operandA (fieldA w)) = w := by
  conv_rhs => rw [← packWord_fields w]
  rw [encodeSpecial, (classA_operandA (fieldA w)).1, ho]

/-- All that a word which decodes can be: basic or special, with the operands of its fields, and the encoding of its
instruction (30 R91, R101). -/
theorem decode_cases {w : Word} {i : Instr} (h : decode w = .ok i) :
    encode i = w ∧
      ((fieldO w ≠ 0 ∧ i.operands = (some (operandB (fieldB w)), operandA (fieldA w))) ∨
        (fieldO w = 0 ∧ i.operands = (none, operandA (fieldA w)))) := by
  by_cases ho : fieldO w = 0
  · rw [decode_of_special ho] at h
    obtain ⟨hops, henc⟩ := encode_of_decodeSpecial h
    exact ⟨henc.trans (encodeSpecial_fields ho), .inr ⟨ho, hops⟩⟩
  · rw [decode_of_basic ho] at h
    obtain ⟨hops, henc⟩ := encode_of_decodeBasic h
    exact ⟨henc.trans (encodeBasic_fields w), .inl ⟨ho, hops⟩⟩

/-- What decodes is well formed: a field stands for operands of its own position only (30 R93, R94, R101). -/
theorem wf_of_decode {w : Word} {i : Instr} (h : decode w = .ok i) : i.wf = true := by
  have ha := (classA_operandA (fieldA w)).2
  obtain ⟨-, ⟨-, hops⟩ | ⟨-, hops⟩⟩ := decode_cases h
  · exact (Instr.wf_of_basic hops).mpr ⟨(low_operandB (fieldB w)).2, ha⟩
  · exact (Instr.wf_of_special hops).mpr ha

/-! ### The codes without a row -/

theorem decodeBasic_of_illegal {o : BitVec 5} (b a : Operand) (h : o.toNat ∈ [0x18, 0x19, 0x1c, 0x1d, 0x1e, 0x1f]) :
    decodeBasic o b a = .error ⟨.basic, o⟩ := by
  simp only [List.mem_cons, List.not_mem_nil, or_false] at h
  rcases h with h | h | h | h | h | h <;> simp only [decodeBasic, h]

theorem exists_decodeBasic {o : BitVec 5} (b a : Operand) (ho : o ≠ 0)
    (h : o.toNat ∉ [0x18, 0x19, 0x1c, 0x1d, 0x1e, 0x1f]) : ∃ i, decodeBasic o b a = .ok i := by
  have hpos : o.toNat ≠ 0 := fun hzero => ho (BitVec.eq_of_toNat_eq hzero)
  have hlt : o.toNat < 32 := o.isLt
  simp only [List.mem_cons, List.not_mem_nil, or_false] at h
  unfold decodeBasic
  split
  case h_26 => -- the map's last row, which a code that is neither 0 nor listed does not reach
    simp only [imp_false] at *
    omega
  all_goals exact ⟨_, rfl⟩

theorem decodeSpecial_of_illegal {code : BitVec 5} (a : Operand)
    (h : code.toNat ∉ [0x01, 0x07, 0x08, 0x09, 0x0a, 0x10, 0x11, 0x12]) :
    decodeSpecial code a = .error ⟨.special, code⟩ := by
  unfold decodeSpecial
  split
  case h_9 => rfl -- the map's last row
  all_goals
    next hcode =>
    rw [hcode] at h
    exact absurd (by decide) h

theorem exists_decodeSpecial {code : BitVec 5} (a : Operand)
    (h : code.toNat ∈ [0x01, 0x07, 0x08, 0x09, 0x0a, 0x10, 0x11, 0x12]) : ∃ i, decodeSpecial code a = .ok i := by
  simp only [List.mem_cons, List.not_mem_nil, or_false] at h
  rcases h with h | h | h | h | h | h | h | h <;> simp only [decodeSpecial, h] <;> exact ⟨_, rfl⟩

/-! ### The fields as numbers, and the length -/

theorem fieldO_toNat (w : Word) : (fieldO w).toNat = w.toNat % 0x20 := by
  simp [fieldO, BitVec.extractLsb'_toNat]

theorem fieldB_toNat (w : Word) : (fieldB w).toNat = w.toNat / 0x20 % 0x20 := by
  simp [fieldB, BitVec.extractLsb'_toNat, Nat.shiftRight_eq_div_pow]

theorem fieldA_toNat (w : Word) : (fieldA w).toNat = w.toNat / 0x400 := by
  have hlt : w.toNat < 0x10000 := w.isLt
  simp only [fieldA, BitVec.extractLsb'_toNat, Nat.shiftRight_eq_div_pow]
  omega

theorem fieldO_eq_zero_iff (w : Word) : fieldO w = 0 ↔ w.toNat % 0x20 = 0 := by
  rw [← BitVec.toNat_inj, fieldO_toNat]
  rfl

theorem Operand.ofNat_ext (o : Operand) : BitVec.ofNat 16 o.ext = if o.needsWord then 1 else 0 := by
  unfold Operand.ext
  split <;> rfl

/-- Which of the 64 classes of position a take a next word (30 R92, R95). -/
theorem ext_operandA : ∀ c : BitVec 6, (operandA c).ext = Claims.extOf c.toNat := by decide

/-- Which of the 32 classes of position b take a next word (30 R92, R95). -/
theorem ext_operandB : ∀ c : BitVec 5, (operandB c).ext = Claims.extOf c.toNat := by decide

theorem lengthOf_of_basic {w : Word} {i : Instr} {b a : Operand} (h : decode w = .ok i)
    (hops : i.operands = (some b, a)) : lengthOf w = 1 + a.ext + b.ext := by
  obtain ⟨-, ⟨ho, hfields⟩ | ⟨-, hfields⟩⟩ := decode_cases h
  · cases hops.symm.trans hfields
    rw [lengthOf, if_neg ho]
  · cases hops.symm.trans hfields

theorem lengthOf_of_special {w : Word} {i : Instr} {a : Operand} (h : decode w = .ok i)
    (hops : i.operands = (none, a)) : lengthOf w = 1 + a.ext := by
  obtain ⟨-, ⟨-, hfields⟩ | ⟨ho, hfields⟩⟩ := decode_cases h
  · cases hops.symm.trans hfields
  · cases hops.symm.trans hfields
    rw [lengthOf, if_pos ho, Nat.add_zero]

end Sys2Proof

namespace Sys2Proof.Machine

/-! ### PC over the next words -/

theorem State.decodeA_pc (s : State) (a : Operand) : (s.decodeA a).get .pc = s.get .pc + BitVec.ofNat 16 a.ext := by
  rw [State.decodeA_get, if_pos rfl, Operand.ofNat_ext]

theorem State.decodeB_pc (s : State) (b : Operand) : (s.decodeB b).get .pc = s.get .pc + BitVec.ofNat 16 b.ext := by
  rw [State.decodeB_get, if_pos rfl, Operand.ofNat_ext]

theorem basicAtCompletion_pc (cost : Nat) (b a : Operand) (s : State) :
    (basicAtCompletion cost b a s).get .pc = s.get .pc + BitVec.ofNat 16 (a.ext + b.ext) := by
  rw [basicAtCompletion_get, State.decodeB_pc, State.decodeA_pc, BitVec.ofNat_add, BitVec.add_assoc]

theorem specialAtCompletion_pc (cost : Nat) (a : Operand) (s : State) :
    (specialAtCompletion cost a s).get .pc = s.get .pc + BitVec.ofNat 16 a.ext := by
  rw [specialAtCompletion_get, State.decodeA_pc]

/-! ### FETCH at a boundary -/

theorem step_of_boundary {s : State} (herr : s.lastError = none) (hboundary : s.atBoundary = true) :
    step s = fetchAndRun s := by
  simp only [step, herr, hboundary, if_true]

/-- A word without a row latches its error with PC past it, and the cycle is counted (30 R100, 40 R133; log entry 9). -/
theorem fetchAndRun_of_illegal {s : State} {bad : IllegalOpcode}
    (h : decode (s.loadValue (s.get .pc)) = .error bad) :
    fetchAndRun s = .next
      ((s.nextWord.after.latchWord (s.loadValue (s.get .pc))).raise (.opcode bad.form bad.code)).countCycle := by
  simp only [fetchAndRun, State.nextWord_value, h]

/-- One load changes a device by that load or not at all (20 R52, R68). -/
theorem loadedOnly_updateRegion (ad : Nat) (mm : List MapRegion) :
    Claims.LoadedOnly mm (updateRegion ad (fun offset d => d.afterLoad offset) mm) := by
  refine ⟨updateRegion_bounds ad _ mm, fun q => ?_⟩
  rcases regionAt_updateRegion_cases ad (fun offset d => d.afterLoad offset) mm q with hsame | ⟨r, hr, -, hloaded⟩
  · exact ⟨[], by simp [hsame]⟩
  · exact ⟨[ad - r.start], by simp [hr, hloaded]⟩

end Sys2Proof.Machine

namespace Sys2Proof.Proofs

open Sys2Proof.Machine

/-- Settles O38: every instruction has a row in one of the two maps, and its operands decode from their classes. -/
theorem decodeOfEncodeIsTheInstruction : Obligations.DecodeOfEncodeIsTheInstruction :=
  fun _ hwf => decode_encode hwf

/-- Settles O39: a row of the maps has one code, and a class one number, so that the word's fields come back. -/
theorem encodeOfDecodeIsTheWord : Obligations.EncodeOfDecodeIsTheWord :=
  fun _ _ h => ⟨wf_of_decode h, (decode_cases h).1⟩

/-- Settles O40: field o selects the map, and the map answers by the code alone. -/
theorem illegalEncodingsAreExactlyTheListed : Obligations.IllegalEncodingsAreExactlyTheListed := by
  intro w
  simp only [← fieldO_toNat, ← fieldB_toNat, BitVec.ofNat_toNat, BitVec.setWidth_eq]
  have hzero : (fieldO w).toNat = 0 ↔ fieldO w = 0 := by rw [fieldO_eq_zero_iff, fieldO_toNat]
  refine ⟨fun hmem => ?_, fun ho hmem => ?_, fun ho hmem => ?_, fun ho hmem => ?_⟩
  · have ho : fieldO w ≠ 0 := fun ho => by rw [ho] at hmem; exact absurd hmem (by decide)
    rw [decode_of_basic ho, decodeBasic_of_illegal _ _ hmem]
  · rw [decode_of_special (hzero.mp ho), decodeSpecial_of_illegal]
    simp only [List.mem_cons, List.not_mem_nil, or_false] at hmem ⊢
    omega
  · rw [decode_of_basic (mt hzero.mpr ho)]
    exact exists_decodeBasic _ _ (mt hzero.mpr ho) hmem
  · rw [decode_of_special (hzero.mp ho)]
    exact exists_decodeSpecial _ hmem

/-- Settles O41: the classes with a next word are told class by class, and PC passes each operand's next word as the
operand resolves. -/
theorem lengthCountsTheWordsPcPasses : Obligations.LengthCountsTheWordsPcPasses := by
  refine ⟨fun w => ?_, fun w i b a => lengthOf_of_basic, fun w i a => lengthOf_of_special,
    fun cost b a s => ⟨basicAtCompletion_pc cost b a s, specialAtCompletion_pc cost a s⟩⟩
  simp only [lengthOf, ext_operandA, ext_operandB, fieldA_toNat, fieldB_toNat, fieldO_eq_zero_iff, ite_not]

/-- Settles O42: the decoder evaluated on each of the eight words. -/
theorem workedEncodingsDecode : Obligations.WorkedEncodingsDecode :=
  ⟨rfl, rfl, rfl, rfl, rfl, rfl, rfl, rfl⟩

/-- Settles O44: FETCH reads the word through the router, moves PC past it and raises; nothing else runs. -/
theorem illegalOpcodeLatchesOpcodeError : Obligations.IllegalOpcodeLatchesOpcodeError := by
  intro s bad herr hboundary hbad
  refine ⟨_, (step_of_boundary herr hboundary).trans (fetchAndRun_of_illegal hbad), rfl, fun q => ?_, rfl, rfl,
    loadedOnly_updateRegion (s.get .pc).toNat s.mmap, rfl⟩
  simp only [State.countCycle_get, State.raise_get, State.latchWord_get, State.nextWord_after_get]

end Sys2Proof.Proofs
end

section
/-! PROOFS. The operands (spec 40 R134 to R137): what each class resolves to, operand a before operand b, and what their
cycles change. -/

namespace Sys2Proof.Machine

/-! ### The classes of the operand table -/

theorem regOf_index_lt (g : GReg) : (regOf g).index.val < 8 := by
  cases g <;> decide

theorem Reg.index_injective : Function.Injective Reg.index := by
  intro q r
  cases q <;> cases r <;> decide

theorem low_reg_toNat (g : GReg) : (Operand.reg g).low.toNat = (regOf g).index.val := by
  cases g <;> rfl

theorem low_indirect_toNat (g : GReg) : (Operand.indirect g).low.toNat = (regOf g).index.val + 0x08 := by
  cases g <;> rfl

theorem low_indexed_toNat (g : GReg) : (Operand.indexed g).low.toNat = (regOf g).index.val + 0x10 := by
  cases g <;> rfl

/-- No general register is PC, so the next word leaves the base of an indexed operand as it is (30 R92). -/
theorem State.nextWord_after_get_regOf (s : State) (g : GReg) : s.nextWord.after.get (regOf g) = s.get (regOf g) := by
  rw [State.nextWord_after_get, if_neg (by cases g <;> decide)]

/-- A class of position a below 0x20 other than POP's is that of an operand which position b has too (30 R92 to R94). -/
theorem low_operandA : ∀ c : BitVec 6, c.toNat < 0x20 → c.toNat ≠ 0x18 →
    (operandA c).low.toNat = c.toNat ∧ (operandA c).okB = true ∧ operandA c ≠ .push := by decide

/-- An operand of the classes 0x00 to 0x1f that is no stack operand resolves as the table says for its class. -/
theorem classMeans_low (s : State) (o : Operand) (hb : o.okB = true) (hpush : o ≠ .push) :
    Claims.ClassMeans s o.low.toNat (resolve o s) := by
  cases o with
  | reg g =>
    rw [low_reg_toNat]
    have hlt := regOf_index_lt g
    refine ⟨fun q hq _ => ?_, ?_, ?_, ?_, ?_, ?_, ?_, ?_, ?_, ?_⟩
    · rw [Reg.index_injective (Fin.ext hq)]; rfl
    all_goals intros; omega
  | indirect g =>
    rw [low_indirect_toNat]
    have hlt := regOf_index_lt g
    refine ⟨?_, fun q hq _ => ?_, ?_, ?_, ?_, ?_, ?_, ?_, ?_, ?_⟩
    case refine_2 => rw [Reg.index_injective (Fin.ext (Nat.add_right_cancel hq))]; rfl
    all_goals intros; omega
  | indexed g =>
    rw [low_indexed_toNat]
    have hlt := regOf_index_lt g
    refine ⟨?_, ?_, fun q hq _ => ?_, ?_, ?_, ?_, ?_, ?_, ?_, ?_⟩
    case refine_3 =>
      rw [Reg.index_injective (Fin.ext (Nat.add_right_cancel hq)), ← State.nextWord_after_get_regOf]; rfl
    all_goals intros; omega
  | peek => refine ⟨?_, ?_, ?_, fun _ => rfl, ?_, ?_, ?_, ?_, ?_, ?_⟩ <;> intros <;> contradiction
  | pick => refine ⟨?_, ?_, ?_, ?_, fun _ => rfl, ?_, ?_, ?_, ?_, ?_⟩ <;> intros <;> contradiction
  | sp => refine ⟨?_, ?_, ?_, ?_, ?_, fun _ => rfl, ?_, ?_, ?_, ?_⟩ <;> intros <;> contradiction
  | pc => refine ⟨?_, ?_, ?_, ?_, ?_, ?_, fun _ => rfl, ?_, ?_, ?_⟩ <;> intros <;> contradiction
  | ex => refine ⟨?_, ?_, ?_, ?_, ?_, ?_, ?_, fun _ => rfl, ?_, ?_⟩ <;> intros <;> contradiction
  | nextIndirect => refine ⟨?_, ?_, ?_, ?_, ?_, ?_, ?_, ?_, fun _ => rfl, ?_⟩ <;> intros <;> contradiction
  | nextLiteral => refine ⟨?_, ?_, ?_, ?_, ?_, ?_, ?_, ?_, ?_, fun _ => rfl⟩ <;> intros <;> contradiction
  | push => exact absurd rfl hpush
  | pop => cases hb
  | short n => cases hb

/-- The classes 0x00 to 0x1f of position a other than POP. -/
theorem classMeans_operandA (s : State) (c : BitVec 6) (hlt : c.toNat < 0x20) (hpop : c.toNat ≠ 0x18) :
    Claims.ClassMeans s c.toNat (resolve (operandA c) s) := by
  obtain ⟨hlow, hb, hpush⟩ := low_operandA c hlt hpop
  simpa only [hlow] using classMeans_low s _ hb hpush

/-- The classes of position b other than PUSH. -/
theorem classMeans_operandB (s : State) (c : BitVec 5) (hpush : c.toNat ≠ 0x18) :
    Claims.ClassMeans s c.toNat (resolve (operandB c) s) := by
  obtain ⟨hlow, hb⟩ := low_operandB c
  have hne : operandB c ≠ .push := fun h => hpush (by rw [← hlow, h]; rfl)
  simpa only [hlow] using classMeans_low s _ hb hne

/-- A short literal's value is its class less 0x21, reduced (30 R93). -/
theorem short_value : ∀ c : BitVec 6, 0x20 ≤ c.toNat →
    operandA c = .short (c.extractLsb' 0 5) ∧
      (c.extractLsb' 0 5).setWidth 16 - 1 = BitVec.ofInt 16 ((c.toNat : Int) - 0x21) := by decide

/-! ### Operand a before operand b -/

/-- The state with another scratch: what only the scratch tells apart resolves alike. -/
def State.withScratch (s : State) (f : Scratch) : State := { s with scratch := f }

/-- The state in which an operand's next word is read: past the cycle that the operand waits for it (40 R135, R137). -/
def State.waited (s : State) (o : Operand) : State := if o.needsWord then s.endCycle else s

theorem State.waitForWord_withScratch (s : State) (f : Scratch) (o : Operand) :
    ((s.withScratch f).waitForWord o).setDelayed false = (s.waited o).withScratch { f with delayed := false } := by
  unfold State.waitForWord State.waited
  split <;> rfl

/-- The scratch plays no part in resolving an operand (40 R136). -/
theorem resolve_withScratch (o : Operand) (s : State) (f : Scratch) :
    resolve o (s.withScratch f) = { resolve o s with after := (resolve o s).after.withScratch f } := by
  cases o <;> rfl

/-- DECODE_A leaves the state that operand a leaves, with the operand in the scratch (40 R135). -/
theorem State.decodeA_withScratch (s : State) (f : Scratch) (a : Operand) :
    (s.withScratch f).decodeA a = (resolve a (s.waited a)).after.withScratch
      { f with delayed := false, va := (resolve a (s.waited a)).value, addrA := (resolve a (s.waited a)).target } := by
  simp only [State.decodeA, State.resolveA, State.waitForWord_withScratch, resolve_withScratch]
  rfl

/-- DECODE_B leaves the state that operand b leaves, with the operand in the scratch (40 R137). -/
theorem State.decodeB_withScratch (s : State) (f : Scratch) (b : Operand) :
    (s.withScratch f).decodeB b = (resolve b (s.waited b)).after.withScratch
      { f with delayed := false, vb := (resolve b (s.waited b)).value, addrB := (resolve b (s.waited b)).target } := by
  simp only [State.decodeB, State.resolveB, State.waitForWord_withScratch, resolve_withScratch]
  rfl

@[simp] theorem State.withScratch_setPhase (s : State) (f : Scratch) (p : Phase) :
    (s.withScratch f).setPhase p = s.withScratch { f with step := p } := rfl

theorem State.exists_startInstr (s : State) (cost : Nat) : ∃ f, s.startInstr cost = s.withScratch f := ⟨_, rfl⟩

/-- The cycles that run the cost down leave the registers and the operands in the scratch (40 R138). -/
theorem burnCycles_withScratch (n : Nat) (s : State) (f : Scratch) :
    ((burnCycles n (s.withScratch f)).setPhase .fetch).regs = s.regs ∧
      ((burnCycles n (s.withScratch f)).setPhase .fetch).scratch =
        { f with remaining := f.remaining - n, step := .fetch } := by
  obtain ⟨-, hregs, hscratch, -, -⟩ := burnCycles_spec n (s.withScratch f)
  exact ⟨hregs, by rw [State.setPhase, hscratch]; rfl⟩

/-- A basic instruction at its completing cycle holds a as resolved first, and b as resolved in the state that a left. -/
theorem basicAtCompletion_operands (cost : Nat) (b a : Operand) (s : State) :
    let ra := resolve a (s.waited a)
    let rb := resolve b (ra.after.waited b)
    let r := basicAtCompletion cost b a s
    r.scratch.va = ra.value ∧ r.scratch.addrA = ra.target ∧ r.scratch.vb = rb.value ∧ r.scratch.addrB = rb.target ∧
      r.regs = rb.after.regs := by
  obtain ⟨f, hstart⟩ := s.exists_startInstr cost
  simp only [basicAtCompletion, hstart, State.decodeA_withScratch, State.withScratch_setPhase,
    State.decodeB_withScratch, burnCycles_withScratch, and_self]

/-- A special instruction at its completing cycle holds its one operand (40 R135, 44 R269). -/
theorem specialAtCompletion_operand (cost : Nat) (a : Operand) (s : State) :
    let ra := resolve a (s.waited a)
    let r := specialAtCompletion cost a s
    r.scratch.va = ra.value ∧ r.scratch.addrA = ra.target ∧ r.regs = ra.after.regs := by
  obtain ⟨f, hstart⟩ := s.exists_startInstr cost
  simp only [specialAtCompletion, hstart, State.decodeA_withScratch, State.withScratch_setPhase,
    burnCycles_withScratch, and_self]

/-! ### What the operands change -/

/-- SP at the completing cycle of a basic instruction, each operand in a position that its class exists in. -/
theorem basicAtCompletion_sp (cost : Nat) {b a : Operand} (s : State) (hb : b.okB = true) (ha : a.okA = true) :
    (basicAtCompletion cost b a s).get .sp =
      s.get .sp + (if a = .pop then 1 else 0) - (if b = .push then 1 else 0) := by
  have hpush : a ≠ .push := fun h => by rw [h] at ha; cases ha
  have hpop : b ≠ .pop := fun h => by rw [h] at hb; cases hb
  simp only [basicAtCompletion_get, State.decodeB_get, State.decodeA_get, reduceCtorEq, if_false, if_true, hpush, hpop]
  split <;> split <;> simp

/-- SP at the completing cycle of a special instruction, whose operand is no PUSH. -/
theorem specialAtCompletion_sp (cost : Nat) {a : Operand} (s : State) (ha : a.okA = true) :
    (specialAtCompletion cost a s).get .sp = s.get .sp + (if a = .pop then 1 else 0) := by
  have hpush : a ≠ .push := fun h => by rw [h] at ha; cases ha
  simp only [specialAtCompletion_get, State.decodeA_get, reduceCtorEq, if_false, if_true, hpush]
  split <;> simp

end Sys2Proof.Machine

namespace Sys2Proof.Proofs

open Sys2Proof.Machine

/-- Settles O32: class by class, through the operand that a class stands for in either position. -/
theorem operandClassesResolveByTable : Obligations.OperandClassesResolveByTable := by
  intro s
  refine ⟨⟨rfl, rfl, s.nextWord_after_get⟩, classMeans_operandA s, classMeans_operandB s, rfl, rfl, fun c hc => ?_⟩
  obtain ⟨hop, hvalue⟩ := short_value c hc
  rw [hop, ← hvalue]
  rfl

/-- Settles O33: a waits and resolves, then b in the state a left, and the cycles after that touch neither the registers
nor the operands in the scratch. -/
theorem sourceResolvesBeforeDestination : Obligations.SourceResolvesBeforeDestination := by
  intro cost b a s ra rb r
  obtain ⟨hva, haddrA, hvb, haddrB, hregs⟩ := basicAtCompletion_operands cost b a s
  exact ⟨hva, haddrA, hvb, haddrB, hregs, specialAtCompletion_operand cost a s⟩

/-- Settles O34: waiting, resolving and counting down each keep the memory, and only a resolving operand moves PC and SP. -/
theorem operandsChangeOnlyPcAndSp : Obligations.OperandsChangeOnlyPcAndSp := by
  intro cost b a s
  refine ⟨basicAtCompletion_keepsMemory cost b a s, specialAtCompletion_keepsMemory cost a s, fun q hpc hsp => ?_,
    basicAtCompletion_pc cost b a s, specialAtCompletion_pc cost a s, fun hb ha =>
      ⟨basicAtCompletion_sp cost s hb ha, specialAtCompletion_sp cost s ha⟩⟩
  simp only [basicAtCompletion_get, specialAtCompletion_get, State.decodeB_get, State.decodeA_get, hpc, hsp, if_false,
    and_self]

end Sys2Proof.Proofs
end

section
/-! PROOFS. What a completing cycle may write (spec 40 R139, R140), and how many cycles an instruction takes (40 R143). -/

namespace Sys2Proof.Machine

open Claims (isConditional)

/-! ### What a completing cycle may write -/

/-- The later state comes from the earlier one by accepted write-backs alone, to registers and to memory. -/
def State.Wrote : State → State → Prop := Relation.ReflTransGen (fun s t => ∃ target v, t = s.written target v)

theorem State.Wrote.refl (s : State) : s.Wrote s := Relation.ReflTransGen.refl

theorem State.Wrote.trans {s t u : State} (h : s.Wrote t) (h' : t.Wrote u) : s.Wrote u :=
  Relation.ReflTransGen.trans h h'

theorem State.wrote_written (s : State) (target : Address) (v : Word) : s.Wrote (s.written target v) :=
  Relation.ReflTransGen.single ⟨target, v, rfl⟩

theorem State.wrote_setReg (s : State) (r : Reg) (v : Word) : s.Wrote (s.setReg r v) :=
  s.wrote_written (.register r) v

/-- What no single write-back changes, no number of them changes. -/
theorem State.Wrote.keeps {α : Type} {field : State → α} (hfield : ∀ s target v, field (s.written target v) = field s)
    {s t : State} (h : s.Wrote t) : field t = field s := by
  induction h with
  | refl => rfl
  | tail _ hstep ih =>
    obtain ⟨target, v, rfl⟩ := hstep
    exact (hfield _ target v).trans ih

theorem State.Wrote.scratch {s t : State} (h : s.Wrote t) : t.scratch = s.scratch := h.keeps State.written_scratch

theorem State.Wrote.lastError {s t : State} (h : s.Wrote t) : t.lastError = s.lastError :=
  h.keeps State.written_lastError

theorem State.Wrote.cycleCount {s t : State} (h : s.Wrote t) : t.cycleCount = s.cycleCount :=
  h.keeps State.written_cycleCount

/-- The operation only writes, up to its end or up to the access that is refused (60 R303). -/
def Effect.Writes (s : State) : Effect → Prop
  | .ok t => s.Wrote t
  | .raised _ t => s.Wrote t

theorem Effect.Writes.of_wrote {s t : State} (h : s.Wrote t) {x : Effect} (hx : x.Writes t) : x.Writes s := by
  cases x with
  | ok u => exact h.trans hx
  | raised e u => exact h.trans hx

theorem Effect.Writes.andThen {s : State} {x : Effect} {next : State → Effect} (hx : x.Writes s)
    (hnext : ∀ t, (next t).Writes t) : (x.andThen next).Writes s := by
  cases x with
  | ok t => exact Effect.Writes.of_wrote hx (hnext t)
  | raised e t => exact hx

/-- A write-back is accepted and writes, or it is a refused store and raises. -/
theorem State.commit_writes (s : State) (target : Address) (v : Word) : (s.commit target v).Writes s := by
  cases haccepts : s.accepts target with
  | true => rw [s.commit_of_accepts target v haccepts]; exact s.wrote_written target v
  | false =>
    cases target with
    | none | register => cases haccepts
    | memory ad =>
      rw [s.commit_of_refused ad v (by simpa [State.accepts] using haccepts)]
      exact State.Wrote.refl s

theorem State.writeExAndB_writes (s : State) (ex v : Word) : (s.writeExAndB ex v).Writes s :=
  Effect.Writes.of_wrote (s.wrote_setReg .ex ex) (State.commit_writes _ _ v)

theorem State.pushWord_writes (s : State) (v : Word) : (s.pushWord v).Writes s :=
  Effect.Writes.of_wrote (s.wrote_setReg .sp _) (State.commit_writes _ (.memory _) v)

theorem performSti_writes (s : State) : (performSti s).Writes s :=
  (s.commit_writes _ _).andThen (fun t => (t.wrote_setReg .i _).trans (State.wrote_setReg _ .j _))

theorem performJsr_writes (s : State) : (performJsr s).Writes s :=
  (s.pushWord_writes _).andThen (fun t => t.wrote_setReg .pc _)

theorem performInt_writes (s : State) : (performInt s).Writes s :=
  (s.pushWord_writes _).andThen (fun t =>
    (t.pushWord_writes _).andThen (fun u => (u.wrote_setReg .a _).trans (State.wrote_setReg _ .pc _)))

theorem performHwq_writes (s : State) : (performHwq s).Writes s :=
  ((((s.wrote_setReg .a 0).trans (State.wrote_setReg _ .b 0)).trans (State.wrote_setReg _ .c 0)).trans
    (State.wrote_setReg _ .x 0)).trans (State.wrote_setReg _ .y 0)

/-- The completing cycle of an instruction that is no IFx only writes (40 R139). -/
theorem performInstr_writes {i : Instr} (hi : isConditional i = false) (s : State) :
    ∃ x : Effect, performInstr i s = x.complete ∧ x.Writes s := by
  cases i with
  | set | mod | and | bor | xor | iag | hwn => exact ⟨_, rfl, s.commit_writes _ _⟩
  | add | sub | mul | mli | div | dvi | adx | sbx | shr | asr | shl => exact ⟨_, rfl, s.writeExAndB_writes _ _⟩
  | sti => exact ⟨_, rfl, performSti_writes s⟩
  | jsr => exact ⟨_, rfl, performJsr_writes s⟩
  | int => exact ⟨_, rfl, performInt_writes s⟩
  | ias => exact ⟨performIas s, rfl, s.wrote_setReg .ia _⟩
  | hwq => exact ⟨_, rfl, performHwq_writes s⟩
  | hcf => exact ⟨performHcf s, rfl, State.Wrote.refl s⟩
  | hwi => exact ⟨performHwi s, rfl, State.Wrote.refl s⟩
  | ifb | ifc | ife | ifn | ifg | ifa | ifl | ifu => cases hi

/-- The completing cycle of an IFx tests its predicate (43 R240). -/
theorem performInstr_conditional {i : Instr} (hi : isConditional i = true) (s : State) :
    ∃ holds, performInstr i s = conditional holds s := by
  cases i with
  | ifb | ifc | ife | ifn | ifg | ifa | ifl | ifu => exact ⟨_, rfl⟩
  | _ => cases hi

/-! ### The cycles an instruction takes -/

/-- The completing cycle is counted, also where it raises (log entry 9). -/
theorem settle_cycleCount {s t : State} {x : Effect} (hx : x.Writes s) (h : settle x.complete = .next t) :
    t.cycleCount = s.cycleCount + 1 := by
  cases x with
  | ok u => cases h; exact congrArg (· + 1) (State.Wrote.cycleCount (t := u) hx)
  | raised e u => cases h; exact congrArg (· + 1) (State.Wrote.cycleCount (t := u) hx)

theorem exec_cycleCount {i : Instr} {s t : State} (hi : isConditional i = false) (h : exec i s = .next t) :
    t.cycleCount = (atCompletion i s).cycleCount + 1 := by
  obtain ⟨x, hx, hwrites⟩ := performInstr_writes hi (atCompletion i s)
  rw [exec_eq_settle, hx] at h
  exact settle_cycleCount hwrites h

theorem isConditional_of_special {i : Instr} {a : Operand} (h : i.operands = (none, a)) : isConditional i = false := by
  cases i with
  | jsr | hcf | int | iag | ias | hwn | hwq | hwi => rfl
  | _ => cases h

end Sys2Proof.Machine

namespace Sys2Proof.Proofs

open Sys2Proof.Machine

/-- Settles O45: the cycles before the completing one are the waits and the cost less one, and the completing cycle only
writes. -/
theorem cyclesAreBaseCostPlusNextWords : Obligations.CyclesAreBaseCostPlusNextWords := by
  intro i a s t h
  have hpos := baseCost_pos i
  constructor
  · intro b hops hi
    have hcount := exec_cycleCount hi h
    obtain ⟨hcycles, -⟩ := basicAtCompletion_cycles (baseCost i) b a s
    simp only [atCompletion, hops, hcycles] at hcount
    omega
  · intro hops
    have hcount := exec_cycleCount (isConditional_of_special hops) h
    obtain ⟨hcycles, -⟩ := specialAtCompletion_cycles (baseCost i) a s
    simp only [atCompletion, hops, hcycles] at hcount
    omega

end Sys2Proof.Proofs
end

section
/-! PROOFS. The cycle machine (spec 40 R130 to R139): every turn of the driver's loop comes closer to the end of the
instruction (`descends_driverCycle`), and the turns of one instruction come to what `exec` says (`runRest_eq_exec`). -/

namespace Sys2Proof.Machine

open Claims (isConditional)

/-! ### The driver's loop to the boundary -/

/-- Goes on with `next` after an answer that is a state, and stops with any other. -/
def goOn (next : State → Host.Outcome State Fault Refusal) (x : Host.Outcome State Fault Refusal) :
    Host.Outcome State Fault Refusal :=
  match x with
  | .next s => next s
  | .fault r => .fault r
  | .refused r => .refused r

@[simp] theorem goOn_next (next : State → Host.Outcome State Fault Refusal) (s : State) :
    goOn next (.next s) = next s := rfl
@[simp] theorem goOn_fault (next : State → Host.Outcome State Fault Refusal) (r : Fault) :
    goOn next (.fault r) = .fault r := rfl
@[simp] theorem goOn_refused (next : State → Host.Outcome State Fault Refusal) (r : Refusal) :
    goOn next (.refused r) = .refused r := rfl

/-- Where the driver's run stops: at an instruction boundary or with an error latched. -/
abbrev State.Ended (s : State) : Prop := s.atBoundary = true ∨ s.lastError.isSome = true

theorem State.ended_of_fetch {s : State} (h : s.scratch.step = .fetch) : s.Ended := .inl (decide_eq_true h)

theorem State.not_ended_iff (s : State) : ¬ s.Ended ↔ s.scratch.step ≠ .fetch ∧ s.lastError = none := by
  simp [State.Ended, State.atBoundary]

theorem State.afterCycle_scratch (s : State) : s.afterCycle.scratch = s.scratch := by
  unfold State.afterCycle; split <;> rfl

theorem State.afterCycle_lastError (s : State) : s.afterCycle.lastError = s.lastError := by
  unfold State.afterCycle; split <;> rfl

theorem State.afterCycle_of_safe {s : State} (h : s.lastError = none) : s.afterCycle = s.endCycle := by
  simp only [State.afterCycle, h]

theorem State.ended_afterCycle (s : State) : s.afterCycle.Ended ↔ s.Ended := by
  simp only [State.Ended, State.atBoundary, State.afterCycle_scratch, State.afterCycle_lastError]

theorem driverCycle_of_safe {s : State} (h : s.lastError = none) :
    driverCycle s = goOn (fun t => .next t.afterCycle) (stepCycle s) := by
  simp only [driverCycle, h]; rfl

theorem runToBoundary_of_ended {s : State} (h : s.Ended) (fuel : Nat) : runToBoundary fuel s = .next s := by
  cases fuel with
  | zero => rfl
  | succ n => rw [runToBoundary, if_pos (Bool.or_eq_true_iff.mpr h)]

theorem runToBoundary_succ {s : State} (h : ¬ s.Ended) (fuel : Nat) :
    runToBoundary (fuel + 1) s = goOn (runToBoundary fuel) (driverCycle s) := by
  rw [runToBoundary, if_neg (mt Bool.or_eq_true_iff.mp h)]; rfl

/-! ### Every turn comes closer to the boundary -/

/-- The waits for next words that may still come in a phase, the latch set or not (40 R135, R137). -/
def waitsLeft (p : Phase) (delayed : Bool) : Nat :=
  match p with
  | .decodeA => if delayed then 1 else 2
  | .decodeB => if delayed then 0 else 1
  | .fetch => 0
  | .execute => 0

/-- The cycles that a skip may still add, and one more, so that starting the longest skip comes closer to the boundary too;
none once the internal `SET PC, next_pc` is in flight, whose cycles `remaining` counts (43 R251). -/
def skipLeft (synth : Bool) : Nat := if synth then 0 else Config.memorySize + 1

/-- A bound on the cycles that an instruction in flight can still take (40 R143). -/
def cyclesLeft (s : State) : Nat :=
  s.scratch.remaining + skipLeft s.scratch.synth + waitsLeft s.scratch.step s.scratch.delayed

theorem cyclesLeft_lt_cyclesBound (s : State) : cyclesLeft s < cyclesBound s := by
  have hskip : skipLeft s.scratch.synth ≤ Config.memorySize + 1 := by
    unfold skipLeft
    split <;> omega
  have hwaits : waitsLeft s.scratch.step s.scratch.delayed ≤ 2 := by
    cases s.scratch.step <;> cases s.scratch.delayed <;> decide
  simp only [cyclesLeft, cyclesBound]
  omega

/-- The answer is a state that has come to the end of its instruction, or less than `n` cycles away from it. -/
def Descends (n : Nat) (x : Host.Outcome State Fault Refusal) : Prop := ∀ t, x = .next t → t.Ended ∨ cyclesLeft t < n

theorem Descends.mono {n m : Nat} {x : Host.Outcome State Fault Refusal} (h : Descends n x) (hnm : n ≤ m) :
    Descends m x :=
  fun t ht => (h t ht).imp_right (fun hlt => hlt.trans_le hnm)

theorem descends_next {n : Nat} {t : State} (h : t.Ended ∨ cyclesLeft t < n) : Descends n (.next t) := by
  rintro _ ⟨⟩
  exact h

/-- A skip takes at most as many cycles as the scan takes loads (43 R250, R251). -/
theorem descends_endOfCompletion {s : State} {n : Nat} (i : Instr) (hstep : s.scratch.step = .fetch)
    (hn : Config.memorySize < n) : Descends n (endOfCompletion (performInstr i s)) := by
  cases hi : isConditional i with
  | false =>
    obtain ⟨x, hx, hwrites⟩ := performInstr_writes hi s
    rw [hx]
    cases x with
    | ok t => exact descends_next (.inl (State.ended_of_fetch ((State.Wrote.scratch hwrites).symm ▸ hstep)))
    | raised e t => exact descends_next (.inl (.inr rfl))
  | true =>
    obtain ⟨holds, hx⟩ := performInstr_conditional hi s
    rw [hx, conditional]
    split
    · exact descends_next (.inl (State.ended_of_fetch hstep))
    · split
      · next chain hchain =>
        obtain ⟨-, hskipped, -, -, -, -, -⟩ := scanChain_spec _ _ _ _ _ hchain
        refine descends_next (.inr ?_)
        calc cyclesLeft (chain.after.startSkip chain.nextPc chain.skipped) = chain.skipped := rfl
          _ < n := by omega
      · rintro _ ⟨⟩

theorem descends_cycleExecute (s : State) : Descends (cyclesLeft s) (cycleExecute s) := by
  unfold cycleExecute
  split
  · next hrem =>
    refine descends_next (.inr ?_)
    simp only [cyclesLeft, State.setRemaining_remaining, State.setRemaining_synth, State.setRemaining_step,
      State.setRemaining_delayed]
    omega
  · split
    · exact descends_next (.inl (State.ended_of_fetch rfl))
    · next hsynth =>
      split
      · refine descends_endOfCompletion _ rfl ?_
        simp only [cyclesLeft, skipLeft, if_neg hsynth]
        omega
      · exact descends_next (.inl (.inr rfl))

/-- The cycle that an operand waits is one of the waits left. -/
theorem cyclesLeft_setDelayed {s : State} (hdelayed : s.scratch.delayed = false)
    (hstep : s.scratch.step = .decodeA ∨ s.scratch.step = .decodeB) : cyclesLeft (s.setDelayed true) < cyclesLeft s := by
  rcases hstep with hstep | hstep <;> simp [cyclesLeft, hstep, hdelayed, waitsLeft]

/-- Resolving b leaves no wait. -/
theorem cyclesLeft_resolveB (s : State) (b : Operand) : cyclesLeft ((s.resolveB b).setPhase .execute) ≤ cyclesLeft s := by
  simp [cyclesLeft, State.resolveB_scratch, waitsLeft]

/-- Resolving a leaves at most the wait of b. -/
theorem cyclesLeft_resolveA {s : State} (hstep : s.scratch.step = .decodeA) (a : Operand) {p : Phase}
    (hp : waitsLeft p false ≤ 1) : cyclesLeft ((s.resolveA a).setPhase p) ≤ cyclesLeft s := by
  have hwait : 1 ≤ waitsLeft s.scratch.step s.scratch.delayed := by
    rw [hstep]
    cases s.scratch.delayed <;> decide
  simp only [cyclesLeft, State.setPhase, State.resolveA_scratch]
  omega

theorem descends_cycleDecodeB {s : State} (hstep : s.scratch.step = .decodeB) :
    Descends (cyclesLeft s) (cycleDecodeB s) := by
  unfold cycleDecodeB
  split
  · next hwaits =>
    obtain ⟨-, hdelayed⟩ := Bool.and_eq_true_iff.mp hwaits
    exact descends_next (.inr (cyclesLeft_setDelayed (by simpa using hdelayed) (.inr hstep)))
  · exact (descends_cycleExecute _).mono (cyclesLeft_resolveB s _)

theorem descends_cycleDecodeA {s : State} (hstep : s.scratch.step = .decodeA) :
    Descends (cyclesLeft s) (cycleDecodeA s) := by
  unfold cycleDecodeA
  split
  · next hwaits =>
    obtain ⟨-, hdelayed⟩ := Bool.and_eq_true_iff.mp hwaits
    exact descends_next (.inr (cyclesLeft_setDelayed (by simpa using hdelayed) (.inl hstep)))
  · split
    · exact (descends_cycleDecodeB rfl).mono (cyclesLeft_resolveA hstep _ (by decide))
    · exact (descends_cycleExecute _).mono (cyclesLeft_resolveA hstep _ (by decide))

theorem descends_driverCycle {s : State} (h : ¬ s.Ended) : Descends (cyclesLeft s) (driverCycle s) := by
  obtain ⟨hstep, herr⟩ := s.not_ended_iff.mp h
  have hcycle : Descends (cyclesLeft s) (stepCycle s) := by
    simp only [stepCycle, herr]
    split
    · next hfetch => exact absurd hfetch hstep
    · next hA => exact descends_cycleDecodeA hA
    · next hB => exact descends_cycleDecodeB hB
    · exact descends_cycleExecute s
  rw [driverCycle_of_safe herr]
  cases hx : stepCycle s with
  | next t =>
    refine descends_next ?_
    simpa only [State.ended_afterCycle, cyclesLeft, State.afterCycle_scratch] using hcycle t hx
  | fault r | refused r => rintro _ ⟨⟩

/-- With enough turns the run stops at a boundary or with an error latched. -/
theorem runToBoundary_ended {fuel : Nat} {s t : State} (hfuel : cyclesLeft s < fuel)
    (h : runToBoundary fuel s = .next t) : t.Ended := by
  induction fuel generalizing s with
  | zero => exact absurd hfuel (Nat.not_lt_zero _)
  | succ n ih =>
    by_cases hs : s.Ended
    · rw [runToBoundary_of_ended hs] at h; cases h; exact hs
    · rw [runToBoundary_succ hs] at h
      cases hx : driverCycle s with
      | next u =>
        rw [hx] at h
        rcases descends_driverCycle hs u hx with hu | hu
        · rw [goOn, runToBoundary_of_ended hu] at h; cases h; exact hu
        · exact ih (by omega) h
      | fault r | refused r => rw [hx] at h; cases h

/-- Any two numbers of turns that are enough answer alike. -/
theorem runToBoundary_eq {n m : Nat} {s : State} (hn : cyclesLeft s < n) (hm : cyclesLeft s < m) :
    runToBoundary n s = runToBoundary m s := by
  induction n generalizing s m with
  | zero => exact absurd hn (Nat.not_lt_zero _)
  | succ n ih =>
    obtain ⟨m, rfl⟩ := Nat.exists_eq_add_one_of_ne_zero (Nat.ne_zero_of_lt hm)
    by_cases hs : s.Ended
    · rw [runToBoundary_of_ended hs, runToBoundary_of_ended hs]
    · rw [runToBoundary_succ hs, runToBoundary_succ hs]
      cases hx : driverCycle s with
      | next u =>
        rcases descends_driverCycle hs u hx with hu | hu
        · rw [goOn, runToBoundary_of_ended hu, goOn, runToBoundary_of_ended hu]
        · exact ih (by omega) (by omega)
      | fault r | refused r => rfl

/-! ### The run after a cycle -/

theorem runOneByCycles_eq_goOn (s : State) :
    Claims.runOneByCycles s = goOn (fun t => runToBoundary (cyclesBound t) t) (driverCycle s) := by
  unfold Claims.runOneByCycles
  cases driverCycle s with
  | next t => rw [goOn_next]
  | fault r => rw [goOn_fault]
  | refused r => rw [goOn_refused]

/-- The bound on the cycles is enough after the next turn too, so that the loop can be cut after any turn. -/
theorem runToBoundary_of_not_ended {s : State} (h : ¬ s.Ended) :
    runToBoundary (cyclesBound s) s = Claims.runOneByCycles s := by
  have hleft := cyclesLeft_lt_cyclesBound s
  obtain ⟨k, hk⟩ := Nat.exists_eq_add_one_of_ne_zero (Nat.ne_zero_of_lt hleft)
  rw [hk] at hleft
  rw [runOneByCycles_eq_goOn, hk, runToBoundary_succ h]
  cases hx : driverCycle s with
  | next t =>
    rw [goOn_next, goOn_next]
    rcases descends_driverCycle h t hx with ht | ht
    · rw [runToBoundary_of_ended ht, runToBoundary_of_ended ht]
    · exact runToBoundary_eq (ht.trans_le (Nat.le_of_lt_succ hleft)) (cyclesLeft_lt_cyclesBound t)
  | fault r => rw [goOn_fault, goOn_fault]
  | refused r => rw [goOn_refused, goOn_refused]

/-- What the driver comes to after the answer of a cycle: the end of that cycle, and the cycles to the boundary. -/
def runRest (x : Host.Outcome State Fault Refusal) : Host.Outcome State Fault Refusal :=
  goOn (fun t => runToBoundary (cyclesBound t.afterCycle) t.afterCycle) x

theorem runOneByCycles_of_safe {s : State} (h : s.lastError = none) :
    Claims.runOneByCycles s = runRest (stepCycle s) := by
  rw [runOneByCycles_eq_goOn, driverCycle_of_safe h, runRest]
  cases stepCycle s with
  | next t => rw [goOn_next, goOn_next, goOn_next]
  | fault r => rw [goOn_fault, goOn_fault, goOn_fault]
  | refused r => rw [goOn_refused, goOn_refused, goOn_refused]

theorem runRest_next (t : State) :
    runRest (.next t) = runToBoundary (cyclesBound t.afterCycle) t.afterCycle := by
  rw [runRest, goOn_next]

theorem runRest_of_ended {t : State} (h : t.Ended) : runRest (.next t) = .next t.afterCycle := by
  rw [runRest_next, runToBoundary_of_ended (t.ended_afterCycle.mpr h)]

theorem runRest_of_error {t : State} {e : Error} (h : t.lastError = some e) : runRest (.next t) = .next t.countCycle := by
  rw [runRest_of_ended (.inr (by rw [h]; rfl)), State.afterCycle, h]

theorem runRest_of_boundary {t : State} (hstep : t.scratch.step = .fetch) (herr : t.lastError = none) :
    runRest (.next t) = .next t.endCycle := by
  rw [runRest_of_ended (State.ended_of_fetch hstep), State.afterCycle_of_safe herr]

theorem runRest_of_not_ended {t : State} (hstep : t.scratch.step ≠ .fetch) (herr : t.lastError = none) :
    runRest (.next t) = runRest (stepCycle t.endCycle) := by
  have hne : ¬ t.endCycle.Ended := t.endCycle.not_ended_iff.mpr ⟨hstep, herr⟩
  have herr' : t.endCycle.lastError = none := herr
  rw [runRest_next, State.afterCycle_of_safe herr, runToBoundary_of_not_ended hne, runOneByCycles_of_safe herr']

/-! ### EXECUTE to the boundary -/

theorem stepCycle_of_execute {s : State} (hstep : s.scratch.step = .execute) (herr : s.lastError = none) :
    stepCycle s = cycleExecute s := by
  simp only [stepCycle, herr, hstep]

theorem runRest_of_execute {t : State} (hstep : t.scratch.step = .execute) (herr : t.lastError = none) :
    runRest (.next t) = runRest (cycleExecute t.endCycle) := by
  rw [runRest_of_not_ended (by simp [hstep]) herr, stepCycle_of_execute (s := t.endCycle) hstep herr]

/-- The cycles that only count `remaining` down (40 R138). -/
theorem runRest_burnCycles {n : Nat} {s : State} (hstep : s.scratch.step = .execute) (herr : s.lastError = none)
    (hn : n < s.scratch.remaining) : runRest (cycleExecute s) = runRest (cycleExecute (burnCycles n s)) := by
  induction n generalizing s with
  | zero => rfl
  | succ n ih =>
    have hcycle : cycleExecute s = .next (s.setRemaining (s.scratch.remaining - 1)) := by
      rw [cycleExecute, if_pos (by omega)]
    rw [hcycle, runRest_of_execute (t := s.setRemaining (s.scratch.remaining - 1)) hstep herr]
    exact ih hstep herr (Nat.lt_sub_of_add_lt hn)

/-- With the cost run down to 1, what the completing cycle reads first is as it was (40 R138). -/
theorem burnCycles_to_one (s : State) (hrem : 1 ≤ s.scratch.remaining) :
    let r := burnCycles (s.scratch.remaining - 1) s
    r.scratch.remaining = 1 ∧ r.scratch.synth = s.scratch.synth ∧ inFlight r = inFlight s ∧
      r.lastError = s.lastError := by
  obtain ⟨hkeeps, -, hscratch, -, -⟩ := burnCycles_spec (s.scratch.remaining - 1) s
  simp only [inFlight, hscratch, Nat.sub_sub_self hrem, hkeeps.lastError, and_self]

/-- The cycles of the internal `SET PC, next_pc` (43 R251). -/
theorem runRest_skip {s : State} (hstep : s.scratch.step = .execute) (herr : s.lastError = none)
    (hsynth : s.scratch.synth = true) (hrem : 1 ≤ s.scratch.remaining) : runRest (.next s) = .next (runSkip s) := by
  obtain ⟨hone, hsynth', -, hlast⟩ := burnCycles_to_one s.endCycle hrem
  have hlastCycle : cycleExecute (burnCycles (s.endCycle.scratch.remaining - 1) s.endCycle) =
      .next (burnCycles (s.endCycle.scratch.remaining - 1) s.endCycle).finishSkip := by
    rw [cycleExecute, hone, if_neg (lt_irrefl 1), if_pos (hsynth'.trans hsynth)]
  have hburn := runRest_burnCycles (s := s.endCycle) hstep herr (Nat.sub_one_lt_of_lt hrem)
  rw [runRest_of_execute hstep herr, hburn, hlastCycle]
  exact runRest_of_boundary rfl (hlast.trans herr)

/-- From `perform` to the boundary the cycles come to what `settle` says (43 R251; log entries 6 and 9). -/
theorem runRest_endOfCompletion {s : State} (i : Instr) (hstep : s.scratch.step = .fetch) (herr : s.lastError = none) :
    runRest (endOfCompletion (performInstr i s)) = settle (performInstr i s) := by
  cases hi : isConditional i with
  | false =>
    obtain ⟨x, hx, hwrites⟩ := performInstr_writes hi s
    rw [hx]
    cases x with
    | ok t =>
      have hwrote : s.Wrote t := hwrites
      exact runRest_of_boundary (by rw [hwrote.scratch, hstep]) (hwrote.lastError.trans herr)
    | raised e t => exact runRest_of_error rfl
  | true =>
    obtain ⟨holds, hx⟩ := performInstr_conditional hi s
    rw [hx, conditional]
    split
    · exact runRest_of_boundary hstep herr
    · split
      · next chain hchain =>
        obtain ⟨hskipped, -, hkeeps, -, -, -, -⟩ := scanChain_spec _ _ _ _ _ hchain
        exact runRest_skip rfl (hkeeps.lastError.trans herr) rfl (Nat.one_le_of_lt hskipped)
      · rfl

/-- The instruction `i` is in flight, with no operand waiting and no skip started. -/
structure State.Started (s : State) (i : Instr) : Prop where
  lastError : s.lastError = none
  inFlight : inFlight s = .ok i
  delayed : s.scratch.delayed = false
  synth : s.scratch.synth = false
  remaining : 1 ≤ s.scratch.remaining

/-- EXECUTE: the cost runs down and the instruction completes (40 R138, R139). -/
theorem runRest_cycleExecute {s : State} {i : Instr} (h : s.Started i) (hstep : s.scratch.step = .execute) :
    runRest (cycleExecute s) =
      settle (performInstr i ((burnCycles (s.scratch.remaining - 1) s).setPhase .fetch)) := by
  obtain ⟨hone, hsynth, hflight, hlast⟩ := burnCycles_to_one s h.remaining
  have hlastCycle : cycleExecute (burnCycles (s.scratch.remaining - 1) s) =
      endOfCompletion (performInstr i ((burnCycles (s.scratch.remaining - 1) s).setPhase .fetch)) := by
    rw [cycleExecute, hflight, h.inFlight, hone, if_neg (lt_irrefl 1), hsynth, h.synth]
    rfl
  rw [runRest_burnCycles hstep h.lastError (Nat.sub_one_lt_of_lt h.remaining), hlastCycle]
  exact runRest_endOfCompletion i rfl (hlast.trans h.lastError)

/-! ### DECODE_B and DECODE_A to EXECUTE -/

/-- An operand has resolved: the scratch is as before but for the operands, and none waits. -/
def State.ResolvedTo (s t : State) : Prop :=
  t.lastError = s.lastError ∧ ∃ va ta vb tb,
    t.scratch = { s.scratch with delayed := false, va := va, addrA := ta, vb := vb, addrB := tb }

theorem State.decodeA_resolvedTo (s : State) (a : Operand) : s.ResolvedTo (s.decodeA a) :=
  ⟨((s.waitForWord_keepsMemory a).trans (State.resolveA_keepsMemory _ a)).lastError,
    _, _, _, _, congrArg State.scratch (s.decodeA_withScratch s.scratch a)⟩

theorem State.decodeB_resolvedTo (s : State) (b : Operand) : s.ResolvedTo (s.decodeB b) :=
  ⟨((s.waitForWord_keepsMemory b).trans (State.resolveB_keepsMemory _ b)).lastError,
    _, _, _, _, congrArg State.scratch (s.decodeB_withScratch s.scratch b)⟩

theorem State.Started.resolvedTo {s t : State} {i : Instr} (h : s.Started i) (ht : s.ResolvedTo t) (p : Phase) :
    (t.setPhase p).Started i := by
  obtain ⟨herr, va, ta, vb, tb, hscratch⟩ := ht
  have hflight : Machine.inFlight (t.setPhase p) = Machine.inFlight s := by
    simp only [Machine.inFlight, State.setPhase, hscratch]
  refine ⟨herr.trans h.lastError, hflight.trans h.inFlight, ?_, ?_, ?_⟩
  all_goals simp only [State.setPhase, hscratch, h.synth, h.remaining]

theorem State.ResolvedTo.fields {s t : State} (h : s.ResolvedTo t) :
    t.scratch.form = s.scratch.form ∧ t.scratch.fb = s.scratch.fb ∧ t.scratch.remaining = s.scratch.remaining := by
  obtain ⟨-, va, ta, vb, tb, hscratch⟩ := h
  simp only [hscratch, and_self]

/-- The cycle that an operand waits for its next word ends in the phase it began in (40 R135, R137). -/
theorem runRest_setDelayed {s : State} {i : Instr} (h : s.Started i) (hstep : s.scratch.step ≠ .fetch) :
    runRest (.next (s.setDelayed true)) = runRest (stepCycle (s.setDelayed true).endCycle) :=
  runRest_of_not_ended hstep h.lastError

/-- DECODE_B waits one cycle where b needs a next word, resolves b, and goes on to EXECUTE in the same cycle (40 R137). -/
theorem runRest_cycleDecodeB {s : State} {i : Instr} (h : s.Started i) (hstep : s.scratch.step = .decodeB) :
    runRest (cycleDecodeB s) =
      runRest (cycleExecute ((s.decodeB (operandB s.scratch.fb)).setPhase .execute)) := by
  rw [cycleDecodeB, State.decodeB, State.waitForWord, h.delayed]
  cases (operandB s.scratch.fb).needsWord with
  | false => rfl
  | true =>
    have hcycle : stepCycle (s.setDelayed true).endCycle = cycleExecute
        (((s.setDelayed true).endCycle.resolveB (operandB s.scratch.fb)).setPhase .execute) := by
      simp [stepCycle, cycleDecodeB, hstep, h.lastError]
    exact (runRest_setDelayed h (by simp [hstep])).trans (congrArg runRest hcycle)

/-- What DECODE_A goes on to in the same cycle once a has resolved (40 R135). -/
def afterDecodeA (s : State) : Host.Outcome State Fault Refusal :=
  match s.scratch.form with
  | .basic => cycleDecodeB (s.setPhase .decodeB)
  | .special => cycleExecute (s.setPhase .execute)

theorem cycleDecodeA_of_ready {s : State} (h : ((operandA s.scratch.fa).needsWord && !s.scratch.delayed) = false) :
    cycleDecodeA s = afterDecodeA (s.resolveA (operandA s.scratch.fa)) := by
  cases hform : s.scratch.form <;>
    simp only [cycleDecodeA, h, Bool.false_eq_true, if_false, afterDecodeA, State.resolveA_scratch, hform]

/-- DECODE_A waits one cycle where a needs a next word, and resolves a (40 R135). -/
theorem runRest_cycleDecodeA {s : State} {i : Instr} (h : s.Started i) (hstep : s.scratch.step = .decodeA) :
    runRest (cycleDecodeA s) = runRest (afterDecodeA (s.decodeA (operandA s.scratch.fa))) := by
  rw [State.decodeA, State.waitForWord]
  cases hneeds : (operandA s.scratch.fa).needsWord with
  | false => rw [cycleDecodeA_of_ready (by rw [hneeds]; rfl)]; rfl
  | true =>
    have hwait : cycleDecodeA s = .next (s.setDelayed true) := by
      rw [cycleDecodeA, hneeds, h.delayed]
      rfl
    have hcycle : stepCycle (s.setDelayed true).endCycle =
        afterDecodeA ((s.setDelayed true).endCycle.resolveA (operandA s.scratch.fa)) := by
      rw [stepCycle, State.endCycle_lastError, State.setDelayed_lastError, h.lastError]
      simp only [State.endCycle_scratch, State.setDelayed_step, hstep]
      exact cycleDecodeA_of_ready (Bool.and_false _)
    rw [hwait, runRest_setDelayed h (by simp [hstep]), hcycle]
    rfl

/-- A basic instruction from the end of its DECODE_A (40 R137, R138). -/
theorem runRest_basic {s : State} {i : Instr} (h : s.Started i) (hform : s.scratch.form = .basic) (a : Operand) :
    runRest (afterDecodeA (s.decodeA a)) = settle (performInstr i ((burnCycles (s.scratch.remaining - 1)
      ((((s.decodeA a).setPhase .decodeB).decodeB (operandB s.scratch.fb)).setPhase .execute)).setPhase .fetch)) := by
  have hstartB := h.resolvedTo (s.decodeA_resolvedTo a) .decodeB
  have hB := ((s.decodeA a).setPhase .decodeB).decodeB_resolvedTo (operandB s.scratch.fb)
  obtain ⟨hformA, hfbA, hremA⟩ := (s.decodeA_resolvedTo a).fields
  obtain ⟨-, -, hremB⟩ := hB.fields
  have hgo : afterDecodeA (s.decodeA a) = cycleDecodeB ((s.decodeA a).setPhase .decodeB) := by
    rw [afterDecodeA, hformA, hform]
  rw [hgo, runRest_cycleDecodeB hstartB rfl, State.setPhase_fb, hfbA,
    runRest_cycleExecute (hstartB.resolvedTo hB .execute) rfl, State.setPhase_remaining, hremB,
    State.setPhase_remaining, hremA]

/-- A special instruction from the end of its DECODE_A (40 R135, R138). -/
theorem runRest_special {s : State} {i : Instr} (h : s.Started i) (hform : s.scratch.form = .special) (a : Operand) :
    runRest (afterDecodeA (s.decodeA a)) = settle (performInstr i
      ((burnCycles (s.scratch.remaining - 1) ((s.decodeA a).setPhase .execute)).setPhase .fetch)) := by
  obtain ⟨hformA, -, hremA⟩ := (s.decodeA_resolvedTo a).fields
  have hgo : afterDecodeA (s.decodeA a) = cycleExecute ((s.decodeA a).setPhase .execute) := by
    rw [afterDecodeA, hformA, hform]
  rw [hgo, runRest_cycleExecute (h.resolvedTo (s.decodeA_resolvedTo a) .execute) rfl, State.setPhase_remaining, hremA]

/-! ### One instruction from its boundary -/

/-- From the end of FETCH the cycles come to what `exec` says of the decoded instruction (40 R132, R145). -/
theorem runRest_eq_exec {s : State} {w : Word} {i : Instr} (herr : s.lastError = none) (hi : decode w = .ok i) :
    runRest (cycleDecodeA ((s.latchWord w).startInstr (baseCost i))) = exec i (s.latchWord w) := by
  have hstart : ((s.latchWord w).startInstr (baseCost i)).Started i := ⟨herr, hi, rfl, rfl, baseCost_pos i⟩
  rw [runRest_cycleDecodeA hstart rfl, exec_eq_settle, atCompletion]
  obtain ⟨-, ⟨ho, hops⟩ | ⟨ho, hops⟩⟩ := decode_cases hi
  · rw [runRest_basic hstart (if_neg ho), hops]
    rfl
  · rw [runRest_special hstart (if_pos ho), hops]
    rfl

theorem fetchAndRun_of_legal {s : State} {i : Instr} (h : decode (s.loadValue (s.get .pc)) = .ok i) :
    fetchAndRun s = exec i (s.nextWord.after.latchWord (s.loadValue (s.get .pc))) := by
  simp only [fetchAndRun, State.nextWord_value, h]

theorem cycleFetch_of_legal {s : State} {i : Instr} (h : decode (s.loadValue (s.get .pc)) = .ok i) :
    cycleFetch s =
      cycleDecodeA ((s.nextWord.after.latchWord (s.loadValue (s.get .pc))).startInstr (baseCost i)) := by
  simp only [cycleFetch, State.nextWord_value, h]

theorem cycleFetch_of_illegal {s : State} {bad : IllegalOpcode}
    (h : decode (s.loadValue (s.get .pc)) = .error bad) :
    cycleFetch s = .next
      ((s.nextWord.after.latchWord (s.loadValue (s.get .pc))).raise (.opcode bad.form bad.code)) := by
  simp only [cycleFetch, State.nextWord_value, h]

theorem runRest_cycleFetch {s : State} (herr : s.lastError = none) : runRest (cycleFetch s) = fetchAndRun s := by
  cases hword : decode (s.loadValue (s.get .pc)) with
  | ok i =>
    rw [cycleFetch_of_legal hword, fetchAndRun_of_legal hword]
    exact runRest_eq_exec (s := s.nextWord.after) herr hword
  | error bad =>
    rw [cycleFetch_of_illegal hword, fetchAndRun_of_illegal hword]
    exact runRest_of_error rfl

theorem stepCycle_of_boundary {s : State} (herr : s.lastError = none) (hboundary : s.atBoundary = true) :
    stepCycle s = cycleFetch s := by
  have hstep : s.scratch.step = .fetch := of_decide_eq_true hboundary
  simp only [stepCycle, herr, hstep]

theorem step_in_flight {s : State} (herr : s.lastError = none) (hflight : s.atBoundary = false) :
    step s = runToBoundary (cyclesBound s) s := by
  simp only [step, herr, hflight, Bool.false_eq_true, if_false]

theorem runOneByCycles_ended {s t : State} (h : Claims.runOneByCycles s = .next t) : t.Ended := by
  rw [runOneByCycles_eq_goOn] at h
  cases hx : driverCycle s with
  | next u =>
    rw [hx, goOn_next] at h
    exact runToBoundary_ended (cyclesLeft_lt_cyclesBound u) h
  | fault r | refused r => rw [hx] at h; cases h

end Sys2Proof.Machine

namespace Sys2Proof.Proofs

open Sys2Proof.Machine

/-- Settles O50: FETCH, the waits, the cost running down, the completing cycle and a skip come, cycle by cycle, to what
`exec` says of the decoded instruction. -/
theorem stepIsTheCycleMachineToTheBoundary : Obligations.StepIsTheCycleMachineToTheBoundary := by
  intro s herr hboundary
  rw [step_of_boundary herr hboundary, runOneByCycles_of_safe herr, stepCycle_of_boundary herr hboundary,
    runRest_cycleFetch herr]

/-- Settles O51: every turn of the driver's loop comes closer to the end of the instruction, and a step takes enough. -/
theorem stepInFlightEndsAtABoundary : Obligations.StepInFlightEndsAtABoundary := by
  intro s t _ herr h
  cases hboundary : s.atBoundary with
  | false =>
    rw [step_in_flight herr hboundary] at h
    exact runToBoundary_ended (cyclesLeft_lt_cyclesBound s) h
  | true =>
    rw [stepIsTheCycleMachineToTheBoundary s herr hboundary] at h
    exact runOneByCycles_ended h

/-- Settles O43: FETCH reads one word through the router and moves PC past it. -/
theorem stepRunsTheDecodedInstruction : Obligations.StepRunsTheDecodedInstruction := by
  intro s i herr hboundary hi fetched
  have hget : ∀ q, fetched.get q = if q = .pc then s.get .pc + 1 else s.get q := s.nextWord_after_get
  exact ⟨(step_of_boundary herr hboundary).trans (fetchAndRun_of_legal hi), hget .pc,
    fun q hq => (hget q).trans (if_neg hq), rfl⟩

/-- Settles O46: a turn with an error latched answers the state it was given, so any number of turns does. -/
theorem latchedErrorFreezesTheBlock : Obligations.LatchedErrorFreezesTheBlock := by
  intro s e he
  refine ⟨by simp only [step, he], by simp only [stepCycle, he], fun n => ?_⟩
  induction n with
  | zero => rfl
  | succ n ih => simpa only [driverRun, driverCycle, he] using ih

end Sys2Proof.Proofs
end

section
/-! PROOFS. The move and arithmetic instructions (spec 41 R170 to R183): a basic instruction from its row in the opcode map
to its boundary (`writesB_of_row`), what EX and the result are in the terms of BitVec, and what such an instruction leaves
unchanged. -/

namespace Sys2Proof.Machine

open Claims (EncodesAs MemoryFrame Polled Stored WritesB isConditional isSti leavesEx)

/-! ### A row of the basic opcode map -/

/-- A code with a row in the basic map is not the 0 that marks a special word (30 R91, R98). -/
theorem code_ne_zero_of_row {code : BitVec 5} {b a : Operand} {i : Instr} (hrow : decodeBasic code b a = .ok i) :
    code ≠ 0 := by
  rintro rfl
  cases hrow

theorem encodesAs_of_row {code : BitVec 5} {b a : Operand} {i : Instr} (hrow : decodeBasic code b a = .ok i) :
    EncodesAs i .basic code := by
  obtain ⟨-, hencode⟩ := encode_of_decodeBasic hrow
  have hcode := code_ne_zero_of_row hrow
  refine fun hwf => ⟨?_, ?_, decode_encode hwf⟩
  · simp only [hencode, formOf, encodeBasic, fieldO_packWord, if_neg hcode]
  · simp only [hencode, opOf, encodeBasic, fieldO_packWord, if_neg hcode]

/-- An instruction with two operands performs once both have resolved and its cost has run down (40 R144, R145). -/
theorem exec_of_operands {i : Instr} {b a : Operand} (hops : i.operands = (some b, a)) (s : State) :
    exec i s = settle (performInstr i (basicAtCompletion (baseCost i) b a s)) := by
  rw [exec_eq_settle, atCompletion, hops]

/-- Where it performs, the cycles but the last are counted, and the latched error is as before (40 R132, R143). -/
theorem basicAtCompletion_before (i : Instr) (b a : Operand) (s : State) :
    let r := basicAtCompletion (baseCost i) b a s
    r.scratch.step = .fetch ∧ r.lastError = s.lastError ∧
      r.cycleCount + 1 = s.cycleCount + baseCost i + a.ext + b.ext := by
  obtain ⟨hstep, -⟩ := basicAtCompletion_scratch (baseCost i) (baseCost_pos i) b a s
  obtain ⟨hcycles, -⟩ := basicAtCompletion_cycles (baseCost i) b a s
  have hpos := baseCost_pos i
  exact ⟨hstep, (basicAtCompletion_keepsMemory (baseCost i) b a s).lastError, by omega⟩

/-! ### The write-back to b -/

/-- The poll that ends a cycle changes a device by that poll or not at all (60 R318). -/
theorem State.polled_endCycle (s : State) : Polled s.mmap s.endCycle.mmap := by
  rw [State.endCycle_mmap]
  refine ⟨pollRegions_bounds _ _, fun q => ?_⟩
  rcases regionAt_pollRegions_cases (Config.keyEvent s.polls) s.mmap q with hsame | ⟨g, hg, -, hpolled⟩
  · exact ⟨none, by simp [hsame]⟩
  · exact ⟨Config.keyEvent s.polls, by simp [hg, hpolled]⟩

/-- An accepted write-back and the poll after its cycle change the memory by the write-back alone. -/
theorem stored_written_endCycle (r : State) (target : Address) (v : Word) :
    Stored r (r.written target v).endCycle target v := by
  refine ⟨r.written_backing_read target v, r.written_prot target v, ?_⟩
  have hpolled := (r.written target v).polled_endCycle
  rw [State.written_mmap] at hpolled
  exact hpolled

/-- A write-back is accepted, or it is a store that is refused (20 R53, 40 R140). -/
theorem State.accepts_or_refused (s : State) (target : Address) :
    s.accepts target = true ∨ ∃ ad, target = .memory ad ∧ s.storeRefused ad = true := by
  cases target with
  | none | register => exact .inl rfl
  | memory ad =>
    cases hrefused : s.storeRefused ad with
    | false => exact .inl (by rw [State.accepts, hrefused]; rfl)
    | true => exact .inr ⟨ad, rfl, hrefused⟩

/-- EX is written before the result goes to an accepting b, and is replaced where b is EX (40 R139, R141). -/
theorem writeExAndB_written_get (r : State) (x v : Word) (target : Address) (q : Reg) :
    ((r.setReg .ex x).written target v).get q =
      if target = .register q then v else if q = .ex then x else r.get q := by
  rw [State.written_get, State.setReg_get]

/-- What a row of the basic map does whose completing cycle writes EX and b (41 R170): from there on it is the write-back,
accepted or refused. -/
theorem writesB_of_row {mk : Operand → Operand → Instr} {code : BitVec 5} {cost : Nat}
    {ex value : Word → Word → Word → Word} (hrow : ∀ b a, decodeBasic code b a = .ok (mk b a))
    (hcost : ∀ b a, baseCost (mk b a) = cost)
    (hperform : ∀ b a r, performInstr (mk b a) r =
      (r.writeExAndB (ex r.scratch.vb r.scratch.va (r.get .ex)) (value r.scratch.vb r.scratch.va (r.get .ex))).complete) :
    WritesB mk code cost ex value := by
  intro b a s r v x
  obtain ⟨hops, -⟩ := encode_of_decodeBasic (hrow b a)
  have hexec : exec (mk b a) s = settle (r.writeExAndB x v).complete := by
    rw [exec_of_operands hops, hperform, hcost]
  obtain ⟨hstep, herr, hcycles⟩ := basicAtCompletion_before (mk b a) b a s
  rw [hcost] at hstep herr hcycles
  refine ⟨encodesAs_of_row (hrow b a), fun haccepts => ?_, fun ad htarget hrefused => ?_⟩
  · rw [hexec, settle_writeExAndB r x v haccepts]
    refine ⟨_, rfl, ?_, ?_, ?_, writeExAndB_written_get r x v r.scratch.addrB,
      stored_written_endCycle (r.setReg .ex x) r.scratch.addrB v⟩
    · rw [State.endCycle_scratch, State.written_scratch]; exact hstep
    · rw [State.endCycle_lastError, State.written_lastError]; exact herr
    · rw [State.endCycle_cycleCount, State.written_cycleCount]; exact hcycles
  · have hraised := hexec.trans (settle_writeExAndB_refused r x v ad htarget hrefused)
    exact ⟨_, hraised, rfl, fun q => r.setReg_get .ex q x, rfl, rfl, rfl⟩

/-! ### EX and the results in the terms of BitVec -/

theorem exAdd_eq (b a : Word) : exAdd b a = if b.toNat + a.toNat > 0xFFFF then 1 else 0 := rfl

theorem exAdx_eq (b a ex : Word) : exAdx b a ex = if b.toNat + a.toNat + ex.toNat > 0xFFFF then 1 else 0 := rfl

theorem exSub_eq (b a : Word) : exSub b a = if b.toNat < a.toNat then 0xFFFF else 0 := by
  have hborrow : (b.toNat : Int) - a.toNat < 0 ↔ b.toNat < a.toNat := by omega
  simp only [exSub, unsignedOf_eq, hborrow]

theorem exMul_eq (b a : Word) : exMul b a = BitVec.ofNat 16 (b.toNat * a.toNat / 0x10000) := by
  simp only [exMul, truncNat, unsignedOf_eq, Nat.shiftRight_eq_div_pow, Nat.reducePow]

theorem exMli_eq (b a : Word) : exMli b a = BitVec.ofInt 16 (b.toInt * a.toInt / 0x10000) := by
  simp only [exMli, trunc16, signedOf_eq, Int.shiftRight_eq_div_pow, Nat.reducePow, Nat.cast_ofNat]

theorem unsignedOf_eq_zero_iff (v : Word) : unsignedOf v = 0 ↔ v = 0 := by
  rw [unsignedOf_eq, ← BitVec.toNat_inj]; rfl

theorem exDiv_eq (b a : Word) :
    exDiv b a = if a = 0 then 0 else BitVec.ofNat 16 (b.toNat * 0x10000 / a.toNat) := by
  simp only [exDiv, unsignedOf_eq_zero_iff]; rfl

theorem divResult_eq (b a : Word) : divResult b a = if a = 0 then 0 else BitVec.ofNat 16 (b.toNat / a.toNat) := by
  simp only [divResult, unsignedOf_eq_zero_iff]; rfl

theorem exDvi_eq (b a : Word) :
    exDvi b a = if a = 0 then 0 else BitVec.ofInt 16 ((b.toInt * 0x10000).tdiv a.toInt) := by
  simp only [exDvi, unsignedOf_eq_zero_iff, signedOf_eq]; rfl

theorem dviResult_eq (b a : Word) : dviResult b a = if a = 0 then 0 else BitVec.ofInt 16 (b.toInt.tdiv a.toInt) := by
  simp only [dviResult, unsignedOf_eq_zero_iff, signedOf_eq]; rfl

theorem modResult_eq (b a : Word) : modResult b a = if a = 0 then 0 else BitVec.ofNat 16 (b.toNat % a.toNat) := by
  simp only [modResult, unsignedOf_eq_zero_iff]; rfl

theorem exSbx_eq (b a ex : Word) :
    exSbx b a ex = if b.toNat + ex.toNat < a.toNat then 0xFFFF
      else if b.toNat + ex.toNat > 0xFFFF + a.toNat then 1 else 0 := by
  have hunder : (b.toNat : Int) - a.toNat + ex.toNat < 0 ↔ b.toNat + ex.toNat < a.toNat := by omega
  have hover : (b.toNat : Int) - a.toNat + ex.toNat > 0xFFFF ↔ b.toNat + ex.toNat > 0xFFFF + a.toNat := by omega
  simp only [exSbx, sbxSum, unsignedOf_eq, hunder, hover]

/-! ### STI -/

theorem State.incrementIJ_get (s : State) (q : Reg) :
    s.incrementIJ.get q = s.get q + if q = .i ∨ q = .j then 1 else 0 := by
  simp only [State.incrementIJ, State.setReg_get]
  cases q <;> simp

/-- STI increments I and J where its store is accepted (41 R181). -/
theorem performSti_of_accepts {r : State} (h : r.accepts r.scratch.addrB = true) :
    performSti r = .ok (r.written r.scratch.addrB r.scratch.va).incrementIJ := by
  rw [performSti, State.writeB, r.commit_of_accepts _ _ h, Effect.andThen_ok]

/-- A refused store leaves I and J (41 R181, 92 D13). -/
theorem performSti_of_refused {r : State} {ad : Word} (htarget : r.scratch.addrB = .memory ad)
    (h : r.storeRefused ad = true) : performSti r = .raised (.protection ad) r := by
  rw [performSti, State.writeB, htarget, r.commit_of_refused _ _ h, Effect.andThen_raised]

/-! ### What a basic instruction leaves unchanged -/

/-- What follows the write-back in the completing cycle: STI increments I and J, every other instruction is done. -/
def State.afterWriteBack (i : Instr) (s : State) : State := if isSti i then s.incrementIJ else s

theorem State.afterWriteBack_keepsMemory (i : Instr) (s : State) : s.KeepsMemory (s.afterWriteBack i) := by
  unfold State.afterWriteBack
  split
  · exact (s.setReg_keepsMemory .i _).trans (State.setReg_keepsMemory _ .j _)
  · exact State.KeepsMemory.refl s

theorem State.afterWriteBack_get {i : Instr} {q : Reg} (s : State) (hq : isSti i = true → q ≠ .i ∧ q ≠ .j) :
    (s.afterWriteBack i).get q = s.get q := by
  unfold State.afterWriteBack
  split
  · next hsti =>
    obtain ⟨hi, hj⟩ := hq hsti
    simp only [State.incrementIJ, State.setReg_get, if_neg hi, if_neg hj]
  · rfl

/-- The completing cycle of a basic instruction that is no IFx: EX, b, and what follows; EX is written with what it holds
where the instruction leaves it (40 R139, 10 R27). -/
theorem performInstr_basic {i : Instr} {b a : Operand} (hops : i.operands = (some b, a))
    (hi : isConditional i = false) (r : State) :
    ∃ x v, performInstr i r = ((r.writeExAndB x v).andThen (fun u => .ok (u.afterWriteBack i))).complete ∧
      (leavesEx i = true → x = r.get .ex) := by
  have hdone : ∀ x : Effect, x = x.andThen .ok := fun x => by cases x <;> rfl
  cases i with
  | set | mod | and | bor | xor =>
    exact ⟨r.get .ex, _, congrArg Effect.complete ((r.writeB_eq _).trans (hdone _)), fun _ => rfl⟩
  | add | sub | mul | mli | div | dvi | shr | asr | shl | adx | sbx =>
    exact ⟨_, _, congrArg Effect.complete (hdone (r.writeExAndB _ _)), fun h => by cases h⟩
  | sti =>
    exact ⟨r.get .ex, r.scratch.va, by rw [← r.writeB_eq]; rfl, fun _ => rfl⟩
  | ifb | ifc | ife | ifn | ifg | ifa | ifl | ifu => cases hi
  | jsr | hcf | int | iag | ias | hwn | hwq | hwi => cases hops

/-- All that such an instruction can come to: its write-back is accepted, or its store refused with EX written. -/
theorem exec_basic_cases {i : Instr} {b a : Operand} {s t : State} (hops : i.operands = (some b, a))
    (hi : isConditional i = false) (h : exec i s = .next t) :
    let r := basicAtCompletion (baseCost i) b a s
    ∃ x, (leavesEx i = true → x = r.get .ex) ∧
      ((∃ v, t = (((r.setReg .ex x).written r.scratch.addrB v).afterWriteBack i).endCycle) ∨
        ∃ ad, r.scratch.addrB = .memory ad ∧ r.storeRefused ad = true ∧
          t = ((r.setReg .ex x).raise (.protection ad)).countCycle) := by
  intro r
  obtain ⟨x, v, hperform, hex⟩ := performInstr_basic hops hi r
  rw [exec_of_operands hops, hperform, State.writeExAndB] at h
  refine ⟨x, hex, ?_⟩
  rcases (r.setReg .ex x).accepts_or_refused r.scratch.addrB with haccepts | ⟨ad, htarget, hrefused⟩
  · rw [State.commit_of_accepts _ _ v haccepts] at h
    cases h
    exact .inl ⟨v, rfl⟩
  · rw [htarget, State.commit_of_refused _ ad v hrefused] at h
    cases h
    exact .inr ⟨ad, htarget, hrefused, rfl⟩

/-- The registers after it: EX is written, and no other but b, and I and J by STI (41 R170, R181). -/
theorem exec_basic_get {i : Instr} {b a : Operand} {s t : State} (hops : i.operands = (some b, a))
    (hi : isConditional i = false) (h : exec i s = .next t) :
    let r := basicAtCompletion (baseCost i) b a s
    ∃ x, (leavesEx i = true → x = r.get .ex) ∧
      ∀ q, r.scratch.addrB ≠ .register q → (isSti i = true → q ≠ .i ∧ q ≠ .j) →
        t.get q = if q = .ex then x else r.get q := by
  intro r
  obtain ⟨x, hex, ht⟩ := exec_basic_cases hops hi h
  refine ⟨x, hex, fun q htarget hsti => ?_⟩
  rcases ht with ⟨v, rfl⟩ | ⟨ad, -, -, rfl⟩
  · rw [State.endCycle_get, State.afterWriteBack_get _ hsti, writeExAndB_written_get, if_neg htarget]
  · exact r.setReg_get .ex q x

/-- Only PC, and SP by PUSH and POP, are changed before the completing cycle (40 R136). -/
theorem basicAtCompletion_get_of_kept {cost : Nat} {b a : Operand} {q : Reg} (s : State) (hpc : q ≠ .pc)
    (hsp : q = .sp → a.movesSp = false ∧ b.movesSp = false) : (basicAtCompletion cost b a s).get q = s.get q := by
  simp only [basicAtCompletion_get, State.decodeB_get, State.decodeA_get, if_neg hpc]
  by_cases hq : q = .sp
  · obtain ⟨ha, hb⟩ := hsp hq
    simp only [Operand.movesSp, Bool.or_eq_false_iff, decide_eq_false_iff_not] at ha hb
    simp [hq, ha, hb]
  · simp only [if_neg hq]

/-- A write-back, and after it what keeps the memory, change the memory at the target only. -/
theorem memoryFrame_of_written {r t : State} {target : Address} {v : Word} (h : (r.written target v).KeepsMemory t) :
    MemoryFrame r t (fun ad => target = .memory ad) := by
  refine ⟨fun ad hne => ?_, fun ad hne hquiet => ?_, h.prot.trans (r.written_prot target v),
    h.bounds.trans (r.written_bounds target v), h.running.trans (r.written_running target v)⟩
  · rw [h.backing, State.written_backing_read, if_neg fun hstored => hne hstored.1]
  · obtain ⟨hquiet', hload⟩ := r.written_quiet target v ad hne hquiet
    exact (h.quiet ad hquiet').2.trans hload

/-- What keeps the memory, before a change of it, adds nothing to what the change may touch. -/
theorem State.KeepsMemory.memoryFrame {s r t : State} {stored : Word → Prop} (h : s.KeepsMemory r)
    (hframe : MemoryFrame r t stored) : MemoryFrame s t stored := by
  obtain ⟨hbacking, hload, hprot, hbounds, hrunning⟩ := hframe
  refine ⟨fun ad hne => ?_, fun ad hne hquiet => ?_, hprot.trans h.prot, hbounds.trans h.bounds,
    hrunning.trans h.running⟩
  · rw [hbacking ad hne, h.backing]
  · obtain ⟨hquiet', hload'⟩ := h.quiet ad hquiet
    exact (hload ad hne hquiet').trans hload'

/-- Taking an error changes the latched error and the counter only (60 R302). -/
theorem memoryFrame_raise (r : State) (e : Error) (stored : Word → Prop) :
    MemoryFrame r (r.raise e).countCycle stored :=
  ⟨fun _ _ => rfl, fun _ _ _ => rfl, rfl, rfl, rfl⟩

/-- The memory after it: one accepted write-back, or none and the latched error (20 R53, 60 R302). -/
theorem exec_basic_memory {i : Instr} {b a : Operand} {s t : State} (hops : i.operands = (some b, a))
    (hi : isConditional i = false) (h : exec i s = .next t) :
    let r := basicAtCompletion (baseCost i) b a s
    MemoryFrame s t (fun ad => r.scratch.addrB = .memory ad) ∧
      (t.lastError = s.lastError ∨
        ∃ ad, r.scratch.addrB = .memory ad ∧ r.storeRefused ad = true ∧ t.lastError = some (.protection ad)) := by
  intro r
  obtain ⟨x, -, ht⟩ := exec_basic_cases hops hi h
  have hbefore : s.KeepsMemory (r.setReg .ex x) :=
    (basicAtCompletion_keepsMemory (baseCost i) b a s).trans (r.setReg_keepsMemory .ex x)
  rcases ht with ⟨v, rfl⟩ | ⟨ad, htarget, hrefused, rfl⟩
  · have hafter := (State.afterWriteBack_keepsMemory i ((r.setReg .ex x).written r.scratch.addrB v)).trans
      (State.endCycle_keepsMemory _)
    exact ⟨hbefore.memoryFrame (memoryFrame_of_written hafter),
      .inl (hafter.lastError.trans ((State.written_lastError _ _ v).trans hbefore.lastError))⟩
  · exact ⟨hbefore.memoryFrame (memoryFrame_raise _ _ _), .inr ⟨ad, htarget, hrefused, rfl⟩⟩

end Sys2Proof.Machine

namespace Sys2Proof.Proofs

open Sys2Proof.Machine

/-- Settles O1: the completing cycle writes a back, and EX with what it holds. -/
theorem setMovesSourceToDestination : Obligations.SetMovesSourceToDestination :=
  writesB_of_row (fun _ _ => rfl) (fun _ _ => rfl) fun b a r => by
    rw [performInstr, performSet, State.writeB_eq]

/-- Settles O2: the carry is the model's own, and the reduced sum is the sum of words. -/
theorem addWritesSumAndCarry : Obligations.AddWritesSumAndCarry :=
  writesB_of_row (fun _ _ => rfl) (fun _ _ => rfl) fun b a r => by
    rw [performInstr, performAdd, exAdd_eq, addResult_eq]

/-- Settles O3: the integer difference is negative exactly where b is less than a, and reduced it is that of words. -/
theorem subWritesDifferenceAndBorrow : Obligations.SubWritesDifferenceAndBorrow :=
  writesB_of_row (fun _ _ => rfl) (fun _ _ => rfl) fun b a r => by
    rw [performInstr, performSub, exSub_eq, subResult_eq]

/-- Settles O4: the shift of the product by 16 is its division by 0x10000. -/
theorem mulWritesProductHalves : Obligations.MulWritesProductHalves :=
  writesB_of_row (fun _ _ => rfl) (fun _ _ => rfl) fun b a r => by
    rw [performInstr, performMul, exMul_eq, mulResult_eq]

/-- Settles O5: the floor shift of the signed product by 16 is its floor division by 0x10000. -/
theorem mliWritesSignedProductHalves : Obligations.MliWritesSignedProductHalves :=
  writesB_of_row (fun _ _ => rfl) (fun _ _ => rfl) fun b a r => by
    rw [performInstr, performMli, exMli_eq, mliResult_eq]

/-- Settles O6: the unsigned reading is 0 for the word 0 only. -/
theorem divWritesQuotientAndFraction : Obligations.DivWritesQuotientAndFraction :=
  writesB_of_row (fun _ _ => rfl) (fun _ _ => rfl) fun b a r => by
    rw [performInstr, performDiv, exDiv_eq, divResult_eq]

/-- Settles O7: as DIV, with the two's-complement readings. -/
theorem dviWritesSignedQuotientAndFraction : Obligations.DviWritesSignedQuotientAndFraction :=
  writesB_of_row (fun _ _ => rfl) (fun _ _ => rfl) fun b a r => by
    rw [performInstr, performDvi, exDvi_eq, dviResult_eq]

/-- Settles O8: the completing cycle writes the remainder back, and EX with what it holds. -/
theorem modWritesRemainderKeepsEx : Obligations.ModWritesRemainderKeepsEx :=
  writesB_of_row (fun _ _ => rfl) (fun _ _ => rfl) fun b a r => by
    rw [performInstr, performMod, State.writeB_eq, modResult_eq]

/-- Settles O9: as ADD, with the EX of the completing cycle as a third summand. -/
theorem adxAddsExWithCarry : Obligations.AdxAddsExWithCarry :=
  writesB_of_row (fun _ _ => rfl) (fun _ _ => rfl) fun b a r => by
    rw [performInstr, performAdx, exAdx_eq, adxResult_eq]

/-- Settles O10: the integer sum is told from 0 and 0xFFFF with a moved to the other side. -/
theorem sbxSubtractsAddingEx : Obligations.SbxSubtractsAddingEx :=
  writesB_of_row (fun _ _ => rfl) (fun _ _ => rfl) fun b a r => by
    rw [performInstr, performSbx, exSbx_eq, sbxResult_eq]

/-- Settles O11: the store comes first, and the increments follow it only where it is accepted. -/
theorem stiStoresThenIncrementsIJ : Obligations.StiStoresThenIncrementsIJ := by
  intro b a s r
  have hexec : exec (.sti b a) s = settle (performSti r).complete := rfl
  obtain ⟨hstep, herr, hcycles⟩ := basicAtCompletion_before (.sti b a) b a s
  refine ⟨encodesAs_of_row (b := b) (a := a) rfl, fun haccepts => ?_, fun ad htarget hrefused => ?_⟩
  · rw [hexec, performSti_of_accepts haccepts]
    refine ⟨_, rfl, ?_, ?_, ?_, fun q => ?_, stored_written_endCycle r r.scratch.addrB r.scratch.va⟩
    · exact (congrArg Scratch.step (r.written_scratch _ _)).trans hstep
    · exact (r.written_lastError _ _).trans herr
    · exact (congrArg (· + 1) (r.written_cycleCount _ _)).trans hcycles
    · rw [State.endCycle_get, State.incrementIJ_get, State.written_get]
  · have hraised := congrArg (fun x => settle x.complete) (performSti_of_refused htarget hrefused)
    exact ⟨_, hexec.trans hraised, rfl, fun _ => rfl, rfl, rfl, rfl⟩

/-- Settles O35: up to the completing cycle only PC and SP move and the memory is kept; from there it is EX, one accepted
write-back and the increments of STI, or EX and the latched error. -/
theorem basicWritesLeaveTheRestUnchanged : Obligations.BasicWritesLeaveTheRestUnchanged := by
  intro i b a s t hops hi h r
  obtain ⟨x, hex, hregs⟩ := exec_basic_get hops hi h
  refine ⟨fun q hpc hne htarget hsp hsti => ?_, fun hleaves htarget => ?_, exec_basic_memory hops hi h⟩
  · calc t.get q = r.get q := (hregs q htarget hsti).trans (if_neg hne)
      _ = s.get q := basicAtCompletion_get_of_kept s hpc hsp
  · calc t.get .ex = x := hregs .ex htarget fun _ => ⟨nofun, nofun⟩
      _ = r.get .ex := hex hleaves
      _ = s.get .ex := basicAtCompletion_get_of_kept s nofun nofun

end Sys2Proof.Proofs
end

section
/-! PROOFS. The bitwise and shift instructions (spec 42 R210 to R217). A shift by n is exact and reduced at the end,
so the result is the shift of the word for every n, and EX is a shift to one side up to n = 16 and to the other from
there on. -/

namespace Sys2Proof.Machine

/-! ### As a quotient by a power of two (42 R214 to R216) -/

theorem shrResult_eq_div (b a : Word) : shrResult b a = BitVec.ofNat 16 (b.toNat / 2 ^ a.toNat) := by
  rw [shrResult, truncNat, unsignedOf_eq, unsignedOf_eq, Nat.shiftRight_eq_div_pow]

theorem exShr_eq_div (b a : Word) : exShr b a = BitVec.ofNat 16 (b.toNat * 0x10000 / 2 ^ a.toNat) := by
  rw [exShr, truncNat, unsignedOf_eq, unsignedOf_eq, Nat.shiftRight_eq_div_pow]

theorem asrResult_eq_div (b a : Word) : asrResult b a = BitVec.ofInt 16 (b.toInt / 2 ^ a.toNat) := by
  rw [asrResult, trunc16, signedOf_eq, unsignedOf_eq, Int.shiftRight_eq_div_pow, Nat.cast_pow, Nat.cast_ofNat]

theorem exAsr_eq_div (b a : Word) : exAsr b a = BitVec.ofInt 16 (b.toInt * 0x10000 / 2 ^ a.toNat) := by
  rw [exAsr, trunc16, signedOf_eq, unsignedOf_eq, Int.shiftRight_eq_div_pow, Nat.cast_pow, Nat.cast_ofNat]

theorem shlResult_eq_mul (b a : Word) : shlResult b a = BitVec.ofNat 16 (b.toNat * 2 ^ a.toNat) := by
  rw [shlResult, truncNat, unsignedOf_eq, unsignedOf_eq, Nat.shiftLeft_eq]

theorem exShl_eq_mul_div (b a : Word) : exShl b a = BitVec.ofNat 16 (b.toNat * 2 ^ a.toNat / 0x10000) := by
  rw [exShl, truncNat, unsignedOf_eq, unsignedOf_eq, Nat.shiftLeft_eq]

/-! ### A shift of a reading, reduced to a word (42 R210) -/

theorem truncNat_shiftLeft (b : Word) (k : Nat) : truncNat (b.toNat <<< k) = b <<< k := rfl

theorem truncNat_shiftRight (b : Word) (k : Nat) : truncNat (b.toNat >>> k) = b >>> k :=
  BitVec.eq_of_toNat_eq ((truncNat_toNat _).trans (Nat.mod_eq_of_lt (b >>> k).isLt))

theorem trunc16_shiftRight (b : Word) (k : Nat) : trunc16 (b.toInt >>> k) = b.sshiftRight k :=
  BitVec.sshiftRight_eq.symm

theorem ofInt_two_pow (k : Nat) : BitVec.ofInt 16 (2 ^ k) = BitVec.twoPow 16 k :=
  calc BitVec.ofInt 16 (2 ^ k) = BitVec.ofInt 16 ((2 ^ k : Nat) : Int) := by rw [Nat.cast_pow, Nat.cast_ofNat]
    _ = BitVec.ofNat 16 (2 ^ k) := BitVec.ofInt_natCast 16 (2 ^ k)
    _ = BitVec.twoPow 16 k := BitVec.eq_of_toNat_eq (by rw [BitVec.toNat_ofNat, BitVec.toNat_twoPow])

/-- To the left the sign is shifted out of the word, so the signed reading gives the same word as the unsigned one. -/
theorem trunc16_shiftLeft (b : Word) (k : Nat) : trunc16 (b.toInt <<< k) = b <<< k := by
  rw [trunc16, Int.shiftLeft_eq, BitVec.ofInt_mul, BitVec.ofInt_toInt, ofInt_two_pow, BitVec.shiftLeft_eq_mul_twoPow]

/-! ### The results and EX as shifts of the word (42 R217) -/

theorem shrResult_eq_shift (b a : Word) : shrResult b a = b >>> a.toNat := truncNat_shiftRight b a.toNat

theorem shlResult_eq_shift (b a : Word) : shlResult b a = b <<< a.toNat := truncNat_shiftLeft b a.toNat

theorem asrResult_eq_shift (b a : Word) : asrResult b a = b.sshiftRight a.toNat := by
  rw [asrResult, signedOf_eq, unsignedOf_eq, trunc16_shiftRight]

/-- EX of SHR holds b sixteen places up, shifted down by n. -/
theorem exShr_eq (b a : Word) : exShr b a = truncNat (b.toNat <<< 16 >>> a.toNat) := by
  rw [exShr, unsignedOf_eq, unsignedOf_eq, Nat.shiftLeft_eq]

/-- EX of ASR holds the signed b sixteen places up, shifted down by n. -/
theorem exAsr_eq (b a : Word) : exAsr b a = trunc16 (b.toInt <<< (16 : Nat) >>> a.toNat) := by
  simp only [exAsr, signedOf_eq, unsignedOf_eq, Int.shiftLeft_eq, Int.reducePow]

/-- EX of SHL holds b shifted up by n, sixteen places down. -/
theorem exShl_eq (b a : Word) : exShl b a = truncNat (b.toNat <<< a.toNat >>> 16) := by
  rw [exShl, unsignedOf_eq, unsignedOf_eq, Nat.shiftRight_eq_div_pow]

theorem shiftLeft_shiftRight_of_ge {m n : Nat} (h : m ≤ n) (x : Nat) : x <<< m >>> n = x >>> (n - m) := by
  obtain ⟨k, rfl⟩ := Nat.exists_eq_add_of_le h
  rw [Nat.shiftRight_add, Nat.shiftLeft_shiftRight, Nat.add_sub_cancel_left]

theorem exShr_of_le {b a : Word} (h : a.toNat ≤ 16) : exShr b a = b <<< (16 - a.toNat) := by
  rw [exShr_eq, ← Nat.shiftLeft_sub _ h, truncNat_shiftLeft]

theorem exShr_of_ge {b a : Word} (h : 16 ≤ a.toNat) : exShr b a = b >>> (a.toNat - 16) := by
  rw [exShr_eq, shiftLeft_shiftRight_of_ge h, truncNat_shiftRight]

theorem exShl_of_le {b a : Word} (h : a.toNat ≤ 16) : exShl b a = b >>> (16 - a.toNat) := by
  rw [exShl_eq, shiftLeft_shiftRight_of_ge h, truncNat_shiftRight]

theorem exShl_of_ge {b a : Word} (h : 16 ≤ a.toNat) : exShl b a = b <<< (a.toNat - 16) := by
  rw [exShl_eq, ← Nat.shiftLeft_sub _ h, truncNat_shiftLeft]

theorem exAsr_of_le {b a : Word} (h : a.toNat ≤ 16) : exAsr b a = b <<< (16 - a.toNat) := by
  rw [exAsr_eq, Int.shiftLeft_shiftRight_eq_shiftLeft_of_le h, trunc16_shiftLeft]

theorem exAsr_of_ge {b a : Word} (h : 16 ≤ a.toNat) : exAsr b a = b.sshiftRight (a.toNat - 16) := by
  rw [exAsr_eq, Int.shiftLeft_shiftRight_eq_shiftRight_of_le h, trunc16_shiftRight]

/-- An arithmetic shift by the whole word leaves the sign in every bit. -/
theorem sshiftRight_of_ge {n : Nat} (h : 16 ≤ n) (b : Word) :
    b.sshiftRight n = if b.getLsbD 15 then 0xFFFF else 0 := by
  have hbit : ∀ i, i < 16 → (b.sshiftRight n).getLsbD i = b.getLsbD 15 := fun i hi => by
    rw [BitVec.getLsbD_sshiftRight, if_neg (by omega), decide_eq_false (by omega), Bool.not_false,
      Bool.true_and, BitVec.msb_eq_getLsbD_last]
  refine BitVec.eq_of_getLsbD_eq fun i hi => ?_
  rw [hbit i hi]
  cases b.getLsbD 15 with
  | false => exact BitVec.getLsbD_zero.symm
  | true => exact ((BitVec.getLsbD_allOnes (v := 16)).trans (decide_eq_true hi)).symm

end Sys2Proof.Machine

namespace Sys2Proof.Proofs

open Sys2Proof.Machine

/-- Settles O12: the completing cycle writes the bitwise result back, and EX with what it holds. -/
theorem andBorXorWriteBitwiseResultKeepEx : Obligations.AndBorXorWriteBitwiseResultKeepEx :=
  ⟨writesB_of_row (fun _ _ => rfl) (fun _ _ => rfl) fun b a r => by rw [performInstr, performAnd, State.writeB_eq],
    writesB_of_row (fun _ _ => rfl) (fun _ _ => rfl) fun b a r => by rw [performInstr, performBor, State.writeB_eq],
    writesB_of_row (fun _ _ => rfl) (fun _ _ => rfl) fun b a r => by rw [performInstr, performXor, State.writeB_eq]⟩

/-- Settles O13: a shift to the right is the floor division by the power of two. -/
theorem shrShiftsRightIntoEx : Obligations.ShrShiftsRightIntoEx :=
  writesB_of_row (fun _ _ => rfl) (fun _ _ => rfl) fun b a r => by
    rw [performInstr, performShr, exShr_eq_div, shrResult_eq_div]

/-- Settles O14: as SHR, with the two's-complement reading of b. -/
theorem asrShiftsSignedRightIntoEx : Obligations.AsrShiftsSignedRightIntoEx :=
  writesB_of_row (fun _ _ => rfl) (fun _ _ => rfl) fun b a r => by
    rw [performInstr, performAsr, exAsr_eq_div, asrResult_eq_div]

/-- Settles O15: a shift to the left is the product with the power of two. -/
theorem shlShiftsLeftIntoEx : Obligations.ShlShiftsLeftIntoEx :=
  writesB_of_row (fun _ _ => rfl) (fun _ _ => rfl) fun b a r => by
    rw [performInstr, performShl, exShl_eq_mul_div, shlResult_eq_mul]

/-- Settles O60: each entry of the table is the one shift that holds for all its amounts, or that shift at an end, where
nothing is shifted or the whole word is shifted out. -/
theorem shiftsHaveTheClosedForms : Obligations.ShiftsHaveTheClosedForms := by
  intro b a n sign
  refine ⟨fun h => ?_, fun _ h => ?_, fun h _ => ?_, fun h => ?_⟩
  · have ha : a.toNat = 0 := h
    have hle : a.toNat ≤ 16 := by omega
    rw [shrResult_eq_shift, shlResult_eq_shift, asrResult_eq_shift, exShr_of_le hle, exShl_of_le hle, exAsr_of_le hle,
      ha]
    exact ⟨BitVec.ushiftRight_zero b, BitVec.shiftLeft_eq_zero le_rfl, BitVec.shiftLeft_zero b,
      BitVec.ushiftRight_eq_zero le_rfl, BitVec.sshiftRight_zero, BitVec.shiftLeft_eq_zero le_rfl⟩
  · have hle : a.toNat ≤ 16 := by omega
    exact ⟨shrResult_eq_shift b a, exShr_of_le hle, shlResult_eq_shift b a, exShl_of_le hle, asrResult_eq_shift b a,
      exAsr_of_le hle⟩
  · exact ⟨(shrResult_eq_shift b a).trans (BitVec.ushiftRight_eq_zero h), exShr_of_ge h,
      (shlResult_eq_shift b a).trans (BitVec.shiftLeft_eq_zero h), exShl_of_ge h,
      (asrResult_eq_shift b a).trans (sshiftRight_of_ge h b), exAsr_of_ge h⟩
  · have hge : 16 ≤ a.toNat := by omega
    have hout : 16 ≤ a.toNat - 16 := by omega
    exact ⟨(shrResult_eq_shift b a).trans (BitVec.ushiftRight_eq_zero hge),
      (exShr_of_ge hge).trans (BitVec.ushiftRight_eq_zero hout),
      (shlResult_eq_shift b a).trans (BitVec.shiftLeft_eq_zero hge),
      (exShl_of_ge hge).trans (BitVec.shiftLeft_eq_zero hout),
      (asrResult_eq_shift b a).trans (sshiftRight_of_ge hge b),
      (exAsr_of_ge hge).trans (sshiftRight_of_ge hout b)⟩

end Sys2Proof.Proofs
end

section
/-! PROOFS. The conditional instructions and the skip chain (spec 43 R240 to R253): where a scan ends, or that it never
does, told from the endless sequence of addresses it would reach (`scanChain_some_spec`, `scanChain_eq_none_iff`); what an
IFx comes to in each of its three outcomes (the rules of `settle (conditional …)`); and what a row of the opcode map that is an
IFx does (`conditional_of_row`). -/

namespace Sys2Proof.Machine

open Claims (Conditional LoadedOnly MemoryFrame Polled PolledTimes chainStep isConditional predicateOf)

/-! ### Where a chain ends (43 R249, R250, R252) -/

theorem isIfWord_iff (w : Word) : isIfWord w = true ↔ 0x10 ≤ w.toNat % 0x20 ∧ w.toNat % 0x20 ≤ 0x17 := by
  rw [isIfWord, Bool.and_eq_true, decide_eq_true_iff, decide_eq_true_iff, fieldO_toNat]

/-- Without a device of its own kind, one step of the scan changes nothing but the address and the count (20 R68). -/
theorem scanChain_succ {s : State} (hs : s.noExternal = true) (fuel : Nat) (p : Word) (k : Nat) :
    scanChain (fuel + 1) p k s =
      if isIfWord (s.loadValue p) then scanChain fuel (chainStep s p) (k + 1) s
      else some { nextPc := chainStep s p, skipped := k + 1, after := s } := by
  rw [scanChain, s.afterLoad_of_noExternal p hs]
  rfl

/-- A scan that ends has passed `j` IFx words and ended with the next one, which is none. -/
theorem scanChain_some_spec {s : State} (hs : s.noExternal = true) {fuel : Nat} {p : Word} {k : Nat} {chain : ChainEnd}
    (h : scanChain fuel p k s = some chain) :
    ∃ j, (∀ m < j, isIfWord (s.loadValue ((chainStep s)^[m] p)) = true) ∧
      isIfWord (s.loadValue ((chainStep s)^[j] p)) = false ∧
      chain = { nextPc := (chainStep s)^[j + 1] p, skipped := k + j + 1, after := s } := by
  induction fuel generalizing p k with
  | zero => cases h
  | succ n ih =>
    rw [scanChain_succ hs] at h
    cases hword : isIfWord (s.loadValue p) with
    | true =>
      rw [if_pos hword] at h
      obtain ⟨j, hpassed, hlast, rfl⟩ := ih h
      refine ⟨j + 1, fun m hm => ?_, hlast, by rw [Nat.add_right_comm k 1 j]; rfl⟩
      cases m with
      | zero => exact hword
      | succ m => exact hpassed m (Nat.lt_of_succ_lt_succ hm)
    | false =>
      rw [if_neg (by simp [hword])] at h
      cases h
      exact ⟨0, nofun, hword, rfl⟩

/-- A scan gives up exactly when all the words it loads are IFx words. -/
theorem scanChain_eq_none_iff {s : State} (hs : s.noExternal = true) (fuel : Nat) (p : Word) (k : Nat) :
    scanChain fuel p k s = none ↔ ∀ j < fuel, isIfWord (s.loadValue ((chainStep s)^[j] p)) = true := by
  induction fuel generalizing p k with
  | zero => exact iff_of_true rfl nofun
  | succ n ih =>
    rw [scanChain_succ hs, Nat.forall_lt_succ_left, Function.iterate_zero_apply]
    cases hword : isIfWord (s.loadValue p) with
    | true =>
      rw [if_pos rfl, ih]
      exact (and_iff_right rfl).symm
    | false => exact iff_of_false nofun (fun h => by cases h.1)

/-- Among 65,537 addresses in a row one comes twice. -/
theorem exists_iterate_eq_iterate (f : Word → Word) (p : Word) : ∃ m n, m < n ∧ n ≤ 0x10000 ∧ f^[m] p = f^[n] p := by
  have hmaps : ∀ n ∈ Finset.range (0x10000 + 1), (f^[n] p).toNat ∈ Finset.range 0x10000 :=
    fun n _ => Finset.mem_range.mpr (f^[n] p).isLt
  obtain ⟨m, hm, n, hn, hne, heq⟩ := Finset.exists_ne_map_eq_of_card_lt_of_maps_to
    (by rw [Finset.card_range, Finset.card_range]; exact Nat.lt_succ_self _) hmaps
  rw [Finset.mem_range, Nat.lt_succ_iff] at hm hn
  have hwords := BitVec.eq_of_toNat_eq heq
  rcases lt_or_gt_of_ne hne with hlt | hlt
  · exact ⟨m, n, hlt, hn, hwords⟩
  · exact ⟨n, m, hlt, hm, hwords.symm⟩

/-- What holds at the first 65,536 addresses of an endless sequence holds at all: from the first that comes again, the
sequence repeats. -/
theorem forall_iterate_of_forall_lt {f : Word → Word} {p : Word} {holds : Word → Prop}
    (h : ∀ n < 0x10000, holds (f^[n] p)) (n : Nat) : holds (f^[n] p) := by
  obtain ⟨first, again, hlt, hle, heq⟩ := exists_iterate_eq_iterate f p
  induction n using Nat.strong_induction_on with
  | _ n ih =>
    rcases Nat.lt_or_ge n 0x10000 with hn | hn
    · exact h n hn
    · have hback : f^[n] p = f^[n - again + first] p :=
        calc f^[n] p = f^[n - again + again] p := by rw [Nat.sub_add_cancel (hle.trans hn)]
          _ = f^[n - again + first] p := by rw [Function.iterate_add_apply, ← heq, Function.iterate_add_apply]
      rw [hback]
      exact ih _ (by omega)

/-! ### The memory over a skip (43 R250, R251) -/

theorem loadedOnly_refl (mm : List MapRegion) : LoadedOnly mm mm := ⟨rfl, fun _ => ⟨[], by simp⟩⟩

theorem loadedOnly_trans {mm mm' mm'' : List MapRegion} (h : LoadedOnly mm mm') (h' : LoadedOnly mm' mm'') :
    LoadedOnly mm mm'' := by
  refine ⟨h'.1.trans h.1, fun q => ?_⟩
  obtain ⟨offsets, hq⟩ := h.2 q
  obtain ⟨offsets', hq'⟩ := h'.2 q
  exact ⟨offsets ++ offsets', by simp [hq, hq', Function.comp_def]⟩

theorem polledTimes_trans {m n : Nat} {mm mm' mm'' : List MapRegion} (h : PolledTimes m mm mm')
    (h' : PolledTimes n mm' mm'') : PolledTimes (m + n) mm mm'' := by
  refine ⟨h'.1.trans h.1, fun q => ?_⟩
  obtain ⟨events, hlen, hq⟩ := h.2 q
  obtain ⟨events', hlen', hq'⟩ := h'.2 q
  exact ⟨events ++ events', by simp [hlen, hlen'], by simp [hq, hq', Function.comp_def]⟩

theorem polledTimes_one {mm mm' : List MapRegion} (h : Polled mm mm') : PolledTimes 1 mm mm' := by
  refine ⟨h.1, fun q => ?_⟩
  obtain ⟨event, hq⟩ := h.2 q
  exact ⟨[event], rfl, hq⟩

theorem scanChain_loadedOnly {fuel : Nat} {p : Word} {k : Nat} {s : State} {chain : ChainEnd}
    (h : scanChain fuel p k s = some chain) : LoadedOnly s.mmap chain.after.mmap := by
  induction fuel generalizing p k s with
  | zero => cases h
  | succ n ih =>
    have hload : LoadedOnly s.mmap (s.afterLoad p).mmap := loadedOnly_updateRegion p.toNat s.mmap
    simp only [scanChain] at h
    split at h
    · exact loadedOnly_trans hload (ih h)
    · cases h; exact hload

/-- One poll at the end of each cycle that counts the cost down (60 R318). -/
theorem burnCycles_polledTimes (n : Nat) (s : State) : PolledTimes n s.mmap (burnCycles n s).mmap := by
  induction n generalizing s with
  | zero => exact ⟨rfl, fun _ => ⟨[], rfl, by simp [burnCycles]⟩⟩
  | succ n ih =>
    have hfirst := polledTimes_one (s.setRemaining (s.scratch.remaining - 1)).polled_endCycle
    have hboth := polledTimes_trans hfirst (ih (s.setRemaining (s.scratch.remaining - 1)).endCycle)
    rwa [Nat.add_comm 1 n] at hboth

/-- A poll for the completing cycle of the IFx, and one for each cycle of the internal `SET PC, next_pc`. -/
theorem runSkip_polledTimes {s : State} (hk : 1 ≤ s.scratch.remaining) :
    PolledTimes (s.scratch.remaining + 1) s.mmap (runSkip s).mmap := by
  have hcompleting : PolledTimes 1 s.mmap s.endCycle.mmap := polledTimes_one s.polled_endCycle
  have hburn := burnCycles_polledTimes (s.scratch.remaining - 1) s.endCycle
  have hlast := polledTimes_one (State.polled_endCycle (burnCycles (s.scratch.remaining - 1) s.endCycle).finishSkip)
  have hcount : s.scratch.remaining + 1 = 1 + (s.scratch.remaining - 1) + 1 := by omega
  rw [hcount]
  exact polledTimes_trans (polledTimes_trans hcompleting hburn) hlast

/-- The boundary that a failed IFx comes to when its scan ends so (43 R251). -/
def ChainEnd.boundary (chain : ChainEnd) : State := runSkip (chain.after.startSkip chain.nextPc chain.skipped)

/-- The skip to the end of a chain moves PC, ends at a boundary and takes a cycle per skipped instruction, after the
completing cycle of the IFx. -/
theorem scanChain_boundary {fuel : Nat} {p : Word} {r : State} {chain : ChainEnd}
    (h : scanChain fuel p 0 r = some chain) :
    r.KeepsMemory chain.boundary ∧
      (∀ q, chain.boundary.get q = if q = .pc then chain.nextPc else r.get q) ∧
      chain.boundary.scratch.step = .fetch ∧ chain.boundary.scratch.synth = false ∧
      chain.boundary.cycleCount = r.cycleCount + 1 + chain.skipped ∧
      PolledTimes (chain.skipped + 1) chain.after.mmap chain.boundary.mmap := by
  obtain ⟨hskipped, -, hscan, hregs, -, hcycles, -⟩ := scanChain_spec _ _ _ _ _ h
  have hstart : r.KeepsMemory (chain.after.startSkip chain.nextPc chain.skipped) :=
    hscan.trans (State.scratch_keepsMemory _ _)
  have hk : 1 ≤ (chain.after.startSkip chain.nextPc chain.skipped).scratch.remaining := by simpa using hskipped
  obtain ⟨hskip, hget, hscratch, hcount, -⟩ := runSkip_spec _ hk
  have hpolled := runSkip_polledTimes hk
  have hkept : ∀ q, chain.after.get q = r.get q := fun q => congrArg (RegFile.get · q) hregs
  refine ⟨hstart.trans hskip, fun q => ?_, congrArg Scratch.step hscratch,
    congrArg Scratch.synth hscratch, hcount.trans ?_, hpolled⟩
  · rw [ChainEnd.boundary, hget, State.startSkip_nextPc, State.startSkip_get, hkept]
  · simp only [State.startSkip_cycleCount, State.startSkip_remaining, hcycles]
    omega

/-! ### The three outcomes of an IFx (43 R240, R251, R252) -/

section
variable {holds : Word → Word → Bool} {r : State}

/-- A true predicate goes on to the next instruction (43 R240). -/
theorem settle_conditional_of_true (hp : holds r.scratch.vb r.scratch.va = true) :
    settle (conditional holds r) = .next r.endCycle := by
  rw [conditional, if_pos hp, settle_finished]

/-- A false predicate skips to the end of the chain (43 R251). -/
theorem settle_conditional_of_false {chain : ChainEnd} (hp : holds r.scratch.vb r.scratch.va = false)
    (hscan : scanChain 0x10000 (r.get .pc) 0 r = some chain) :
    settle (conditional holds r) = .next chain.boundary := by
  rw [conditional, if_neg (by simp [hp]), Config.memorySize, hscan]
  rfl

/-- A false predicate before a chain without an end has no successor (43 R252; log entry 6). -/
theorem settle_conditional_of_endless (hp : holds r.scratch.vb r.scratch.va = false)
    (hscan : scanChain 0x10000 (r.get .pc) 0 r = none) :
    settle (conditional holds r) = .fault .skipChainNeverEnds := by
  rw [conditional, if_neg (by simp [hp]), Config.memorySize, hscan]
  rfl

/-- Every next state that an IFx can answer. -/
theorem settle_conditional_cases {t : State} (h : settle (conditional holds r) = .next t) :
    t = r.endCycle ∨ ∃ chain, scanChain 0x10000 (r.get .pc) 0 r = some chain ∧ t = chain.boundary := by
  cases hp : holds r.scratch.vb r.scratch.va with
  | true =>
    rw [settle_conditional_of_true hp] at h
    cases h
    exact .inl rfl
  | false =>
    cases hscan : scanChain 0x10000 (r.get .pc) 0 r with
    | some chain =>
      rw [settle_conditional_of_false hp hscan] at h
      cases h
      exact .inr ⟨chain, rfl, rfl⟩
    | none =>
      rw [settle_conditional_of_endless hp hscan] at h
      cases h

end

/-! ### The eight rows (43 R241 to R248) -/

theorem holdsIfa_eq (b a : Word) : holdsIfa b a = decide (a.toInt < b.toInt) :=
  decide_eq_decide.mpr (by rw [signedOf_eq, signedOf_eq])

theorem holdsIfu_eq (b a : Word) : holdsIfu b a = decide (b.toInt < a.toInt) :=
  decide_eq_decide.mpr (by rw [signedOf_eq, signedOf_eq])

/-- The completing cycle of an IFx tests the predicate of its rule (43 R241 to R248). -/
theorem performInstr_predicateOf {i : Instr} (hi : isConditional i = true) (r : State) :
    performInstr i r = conditional (predicateOf i) r := by
  cases i with
  | ifb | ifc | ife | ifn | ifg | ifl => rfl
  | ifa => exact congrArg (conditional · r) (funext₂ holdsIfa_eq)
  | ifu => exact congrArg (conditional · r) (funext₂ holdsIfu_eq)
  | _ => cases hi

theorem baseCost_of_conditional {i : Instr} (hi : isConditional i = true) : baseCost i = 2 := by
  cases i with
  | ifb | ifc | ife | ifn | ifg | ifa | ifl | ifu => rfl
  | _ => cases hi

theorem exec_of_conditional {i : Instr} {b a : Operand} (hops : i.operands = (some b, a)) (hi : isConditional i = true)
    (s : State) : exec i s = settle (conditional (predicateOf i) (basicAtCompletion 2 b a s)) := by
  rw [exec_of_operands hops, performInstr_predicateOf hi, baseCost_of_conditional hi]

/-- An IFx keeps the memory and moves no register but PC after its operands have resolved (43 R240). -/
theorem exec_conditional_keeps {i : Instr} {b a : Operand} {s t : State} (hops : i.operands = (some b, a))
    (hi : isConditional i = true) (h : exec i s = .next t) :
    s.KeepsMemory t ∧ ∀ q, q ≠ .pc → t.get q = (basicAtCompletion 2 b a s).get q := by
  have hoperands := basicAtCompletion_keepsMemory 2 b a s
  rw [exec_of_conditional hops hi] at h
  rcases settle_conditional_cases h with rfl | ⟨chain, hscan, rfl⟩
  · exact ⟨hoperands.trans (State.endCycle_keepsMemory _), fun q _ => State.endCycle_get _ q⟩
  · obtain ⟨hkeeps, hget, -⟩ := scanChain_boundary hscan
    exact ⟨hoperands.trans hkeeps, fun q hq => (hget q).trans (if_neg hq)⟩

theorem memoryFrame_refl (s : State) (stored : Word → Prop) : MemoryFrame s s stored :=
  ⟨fun _ _ => rfl, fun _ _ _ => rfl, rfl, rfl, rfl⟩

/-- What a row of the basic map does that is an IFx with the predicate `holds` (43 R240, R249 to R251). -/
theorem conditional_of_row {mk : Operand → Operand → Instr} {code : BitVec 5} {holds : Word → Word → Prop}
    (hrow : ∀ b a, decodeBasic code b a = .ok (mk b a)) (hi : ∀ b a, isConditional (mk b a) = true)
    (hholds : ∀ b a vb va, predicateOf (mk b a) vb va = true ↔ holds vb va) : Conditional mk code holds := by
  intro b a s r
  obtain ⟨hops, -⟩ := encode_of_decodeBasic (hrow b a)
  obtain ⟨hstep, herr, hcycles⟩ := basicAtCompletion_before (mk b a) b a s
  rw [baseCost_of_conditional (hi b a)] at hstep herr hcycles
  have hexec : exec (mk b a) s = settle (conditional (predicateOf (mk b a)) r) := exec_of_conditional hops (hi b a) s
  have hoperands : s.KeepsMemory r := basicAtCompletion_keepsMemory 2 b a s
  refine ⟨encodesAs_of_row (hrow b a), fun htrue => ?_, fun hfalse chain hscan => ?_⟩
  · have hp := (hholds b a _ _).mpr htrue
    exact ⟨r.endCycle, hexec.trans (settle_conditional_of_true hp), hstep, herr, hcycles, fun _ => rfl,
      hoperands.backing, hoperands.prot, r.polled_endCycle⟩
  · have hp := Bool.eq_false_iff.mpr (mt (hholds b a _ _).mp hfalse)
    obtain ⟨hkeeps, hget, hstep', hsynth, hcount, hpolled⟩ := scanChain_boundary hscan
    have hmem := hoperands.trans hkeeps
    exact ⟨chain.boundary, hexec.trans (settle_conditional_of_false hp hscan), hstep', hsynth, hmem.lastError,
      hcount.trans (congrArg (· + chain.skipped) hcycles), hget, hmem.backing, hmem.prot, scanChain_loadedOnly hscan,
      hpolled⟩

end Sys2Proof.Machine

namespace Sys2Proof.Proofs

open Sys2Proof.Machine
open Claims (predicateOf)

/-- Settles O16: the row of IFB, whose completing cycle tests this predicate. -/
theorem ifbSkipsUnlessBitsSet : Obligations.IfbSkipsUnlessBitsSet :=
  conditional_of_row (fun _ _ => rfl) (fun _ _ => rfl) fun _ _ _ _ => decide_eq_true_iff

/-- Settles O17: the row of IFC, whose completing cycle tests this predicate. -/
theorem ifcSkipsUnlessBitsClear : Obligations.IfcSkipsUnlessBitsClear :=
  conditional_of_row (fun _ _ => rfl) (fun _ _ => rfl) fun _ _ _ _ => decide_eq_true_iff

/-- Settles O18: the row of IFE, whose completing cycle tests this predicate. -/
theorem ifeSkipsUnlessEqual : Obligations.IfeSkipsUnlessEqual :=
  conditional_of_row (fun _ _ => rfl) (fun _ _ => rfl) fun _ _ _ _ => decide_eq_true_iff

/-- Settles O19: the row of IFN, whose completing cycle tests this predicate. -/
theorem ifnSkipsUnlessDifferent : Obligations.IfnSkipsUnlessDifferent :=
  conditional_of_row (fun _ _ => rfl) (fun _ _ => rfl) fun _ _ _ _ => decide_eq_true_iff

/-- Settles O20: the row of IFG, on the unsigned readings. -/
theorem ifgSkipsUnlessGreaterUnsigned : Obligations.IfgSkipsUnlessGreaterUnsigned :=
  conditional_of_row (fun _ _ => rfl) (fun _ _ => rfl) fun _ _ _ _ => decide_eq_true_iff

/-- Settles O21: the row of IFA, on the signed readings, which are those of two's complement. -/
theorem ifaSkipsUnlessAboveSigned : Obligations.IfaSkipsUnlessAboveSigned :=
  conditional_of_row (fun _ _ => rfl) (fun _ _ => rfl) fun _ _ _ _ => decide_eq_true_iff

/-- Settles O22: the row of IFL, on the unsigned readings. -/
theorem iflSkipsUnlessLessUnsigned : Obligations.IflSkipsUnlessLessUnsigned :=
  conditional_of_row (fun _ _ => rfl) (fun _ _ => rfl) fun _ _ _ _ => decide_eq_true_iff

/-- Settles O23: the row of IFU, on the signed readings, which are those of two's complement. -/
theorem ifuSkipsUnlessUnderSigned : Obligations.IfuSkipsUnlessUnderSigned :=
  conditional_of_row (fun _ _ => rfl) (fun _ _ => rfl) fun _ _ _ _ => decide_eq_true_iff

/-- Settles O36: resolving the operands moves PC and SP alone, and from there on only the scan's loads, the polls and PC
change anything. -/
theorem conditionalsLeaveTheRestUnchanged : Obligations.ConditionalsLeaveTheRestUnchanged := by
  intro i b a s t hops hi h
  obtain ⟨hkeeps, hget⟩ := exec_conditional_keeps hops hi h
  exact ⟨fun q hpc hsp => (hget q hpc).trans (basicAtCompletion_get_of_kept s hpc hsp),
    hkeeps.memoryFrame (memoryFrame_refl t _), hkeeps.lastError⟩

/-- Settles O53: by induction on the words the scan may still load. -/
theorem skipChainEndsAtTheFirstNonConditional : Obligations.SkipChainEndsAtTheFirstNonConditional := by
  refine ⟨isIfWord_iff, fun s p chain hs hscan => ?_⟩
  obtain ⟨hpos, hbound, -⟩ := scanChain_spec _ _ _ _ _ hscan
  obtain ⟨j, hpassed, hlast, rfl⟩ := scanChain_some_spec hs hscan
  simp only [Nat.zero_add, Nat.add_sub_cancel] at hpos hbound ⊢
  exact ⟨hpos, hbound, trivial, fun m hm => hpassed m (Nat.lt_of_succ_lt_succ hm), hlast, trivial⟩

/-- Settles O54: 65,536 IFx words in a row have come back to an address, so that the chain goes on through IFx words for
ever; and an IFx has no successor only where its predicate is false and its scan gives up. -/
theorem skipChainIsStuckExactlyWhenAllConditional : Obligations.SkipChainIsStuckExactlyWhenAllConditional := by
  constructor
  · intro s p hs
    rw [scanChain_eq_none_iff hs]
    exact ⟨fun h => forall_iterate_of_forall_lt (holds := fun ad => isIfWord (s.loadValue ad) = true) h,
      fun h j _ => h j⟩
  · intro i b a s hops hi r holds
    have hexec : exec i s = settle (conditional (predicateOf i) r) := exec_of_conditional hops hi s
    refine ⟨fun hp hscan => hexec.trans (settle_conditional_of_endless hp hscan), fun hends => ?_⟩
    cases hp : holds with
    | true => exact ⟨_, hexec.trans (settle_conditional_of_true hp)⟩
    | false =>
      obtain ⟨chain, hscan⟩ := Option.ne_none_iff_exists'.mp (hends.resolve_left (by simp [hp]))
      exact ⟨_, hexec.trans (settle_conditional_of_false hp hscan)⟩

end Sys2Proof.Proofs
end

section
/-! PROOFS. The special instructions (spec 44 R269 to R277): a special instruction from its row in the opcode map to its
boundary (`exec_special_of_finished`, `exec_special_of_raised`), what a push does (the rules of `State.pushed`), and the
targets a special instruction may write to, from which its frame follows (`performInstr_special_writesWithin`). -/

namespace Sys2Proof.Machine

open Claims (EncodesAs MemoryFrame Stored WritesA WritesRegisters specialStores specialWrites)

/-! ### A row of the special opcode map -/

theorem encodesAs_of_specialRow {code : BitVec 5} {a : Operand} {i : Instr} (hrow : decodeSpecial code a = .ok i) :
    EncodesAs i .special code := by
  obtain ⟨-, hencode⟩ := encode_of_decodeSpecial hrow
  refine fun hwf => ⟨?_, ?_, decode_encode hwf⟩
  · simp only [hencode, formOf, encodeSpecial, fieldO_packWord, if_true]
  · simp only [hencode, opOf, encodeSpecial, fieldO_packWord, fieldB_packWord, if_true]

section
variable {i : Instr} {a : Operand} {cost : Nat} {s u : State}

/-- A special instruction performs once its operand has resolved and its cost has run down (40 R135, R145). -/
theorem exec_of_operand (hops : i.operands = (none, a)) (hcost : baseCost i = cost) :
    exec i s = settle (performInstr i (specialAtCompletion cost a s)) := by
  rw [exec_eq_settle, atCompletion, hops, hcost]

/-- A special instruction that completes ends at a boundary, with its cycles counted and no error taken (40 R139, R143). -/
theorem exec_special_of_finished (hops : i.operands = (none, a)) (hcost : baseCost i = cost)
    (h : performInstr i (specialAtCompletion cost a s) = .finished u) :
    exec i s = .next u.endCycle ∧ u.endCycle.scratch.step = .fetch ∧ u.endCycle.lastError = s.lastError ∧
      u.endCycle.cycleCount = s.cycleCount + cost + a.ext := by
  have hpos : 1 ≤ cost := hcost ▸ baseCost_pos i
  obtain ⟨hstep, -⟩ := specialAtCompletion_scratch cost hpos a s
  obtain ⟨hcycles, -⟩ := specialAtCompletion_cycles cost a s
  obtain ⟨x, hx, hwrote⟩ := performInstr_writes (isConditional_of_special hops) (specialAtCompletion cost a s)
  have hexec := exec_of_operand (s := s) hops hcost
  rw [hx] at h hexec
  cases x with
  | raised => cases h
  | ok =>
    cases h
    refine ⟨hexec, ?_, ?_, ?_⟩
    · rw [State.endCycle_scratch, State.Wrote.scratch hwrote, hstep]
    · rw [State.endCycle_lastError, State.Wrote.lastError hwrote, (specialAtCompletion_keepsMemory cost a s).lastError]
    · rw [State.endCycle_cycleCount, State.Wrote.cycleCount hwrote, hcycles]; omega

/-- A special instruction that raises ends with the error latched (60 R302, R303). -/
theorem exec_special_of_raised {e : Error} (hops : i.operands = (none, a)) (hcost : baseCost i = cost)
    (h : performInstr i (specialAtCompletion cost a s) = .raised e u) :
    exec i s = .next (u.raise e).countCycle := by
  rw [exec_of_operand hops hcost, h, settle_raised]

end

/-! ### Rows that write back to a, and rows that write registers -/

/-- What a row of the special map does whose completing cycle writes `value` back to a (44 R273, R275). -/
theorem writesA_of_row {mk : Operand → Instr} {code : BitVec 5} {cost : Nat} {value : State → Word}
    (hrow : ∀ a, decodeSpecial code a = .ok (mk a)) (hcost : ∀ a, baseCost (mk a) = cost)
    (hperform : ∀ a r, performInstr (mk a) r = (r.commit r.scratch.addrA (value r)).complete) :
    WritesA mk code cost value := by
  intro a s r
  obtain ⟨hops, -⟩ := encode_of_decodeSpecial (hrow a)
  have hr := hperform a r
  refine ⟨encodesAs_of_specialRow (hrow a), fun haccepts => ?_, fun ad htarget hrefused => ?_⟩
  · rw [r.commit_of_accepts _ _ haccepts, Effect.complete_ok] at hr
    obtain ⟨hexec, hstep, herr, hcycles⟩ := exec_special_of_finished hops (hcost a) hr
    exact ⟨_, hexec, hstep, herr, hcycles, r.written_get _ _, stored_written_endCycle r _ _⟩
  · rw [htarget, r.commit_of_refused ad _ hrefused, Effect.complete_raised] at hr
    exact ⟨_, exec_special_of_raised hops (hcost a) hr, rfl, fun _ => rfl, rfl, rfl, rfl⟩

/-- What a row of the special map does whose completing cycle leaves the state `after`, which differs in registers only
(44 R274, R276, R277). -/
theorem writesRegisters_of_row {mk : Operand → Instr} {code : BitVec 5} {cost : Nat} {regs : State → Reg → Word}
    {after : State → State} (hrow : ∀ a, decodeSpecial code a = .ok (mk a)) (hcost : ∀ a, baseCost (mk a) = cost)
    (hperform : ∀ a r, performInstr (mk a) r = .finished (after r)) (hregs : ∀ r q, (after r).get q = regs r q)
    (hkeeps : ∀ r : State, r.KeepsMemory (after r)) (hmmap : ∀ r, (after r).mmap = r.mmap) :
    WritesRegisters mk code cost regs := by
  intro a s r
  obtain ⟨hops, -⟩ := encode_of_decodeSpecial (hrow a)
  have hmem : s.KeepsMemory (after r) := (specialAtCompletion_keepsMemory cost a s).trans (hkeeps r)
  obtain ⟨hexec, hstep, herr, hcycles⟩ := exec_special_of_finished hops (hcost a) (hperform a r)
  exact ⟨encodesAs_of_specialRow (hrow a), _, hexec, hstep, herr, hcycles, hregs r, hmem.backing, hmem.prot,
    hmmap r ▸ (after r).polled_endCycle⟩

/-! ### The push (10 R26, 44 R270, R272) -/

/-- The state with a word pushed: what `pushWord` answers where its store is accepted. -/
def State.pushed (s : State) (v : Word) : State :=
  (s.setReg .sp (s.get .sp - 1)).written (.memory (s.get .sp - 1)) v

theorem State.pushWord_eq_pushed {s : State} (v : Word) (h : s.storeRefused (s.get .sp - 1) = false) :
    s.pushWord v = .ok (s.pushed v) := s.pushWord_of_accepted v h

@[simp] theorem State.pushed_get (s : State) (v : Word) (q : Reg) :
    (s.pushed v).get q = if q = .sp then s.get .sp - 1 else s.get q := by
  rw [State.pushed, State.written_get, if_neg nofun, State.setReg_get]

@[simp] theorem State.pushed_scratch (s : State) (v : Word) : (s.pushed v).scratch = s.scratch :=
  State.written_scratch _ _ _

@[simp] theorem State.pushed_prot (s : State) (v : Word) : (s.pushed v).prot = s.prot := State.written_prot _ _ _

@[simp] theorem State.pushed_mmap (s : State) (v : Word) :
    (s.pushed v).mmap = updateRegion (s.get .sp - 1).toNat (fun offset d => d.afterStore offset v) s.mmap :=
  State.written_mmap _ _ _

@[simp] theorem State.pushed_isMapped (s : State) (v ad : Word) : (s.pushed v).isMapped ad = s.isMapped ad :=
  State.isMapped_of_bounds _ _ ad (State.written_bounds _ _ _)

@[simp] theorem State.pushed_storeRefused (s : State) (v ad : Word) :
    (s.pushed v).storeRefused ad = s.storeRefused ad :=
  State.storeRefused_of_bounds _ _ ad (s.pushed_prot v) (State.written_bounds _ _ _)

theorem State.pushed_backing_read (s : State) (v ad : Word) :
    WordMem.read (s.pushed v).backing ad.toNat =
      if ad = s.get .sp - 1 ∧ s.isMapped (s.get .sp - 1) = false then v else WordMem.read s.backing ad.toNat := by
  rw [State.pushed, State.written_backing_read, State.setReg_isMapped, State.setReg_backing]
  refine if_congr ?_ rfl rfl
  rw [Address.memory.injEq, eq_comm]
  exact and_congr_right fun h => by rw [h]

/-- A push, a jump and the poll after their cycle change the memory by the push alone. -/
theorem stored_pushed_endCycle (s : State) (v : Word) (q : Reg) (w : Word) :
    Stored s ((s.pushed v).setReg q w).endCycle (.memory (s.get .sp - 1)) v :=
  stored_written_endCycle (s.setReg .sp (s.get .sp - 1)) (.memory (s.get .sp - 1)) v

/-- A second push goes two words below the SP of the first (44 R272). -/
theorem State.pushed_get_sp_sub_one (s : State) (v : Word) : (s.pushed v).get .sp - 1 = s.get .sp - 2 := by
  rw [State.pushed_get, if_pos rfl, sub_sub]; rfl

/-! ### The completing cycles that push -/

/-- JSR jumps where its push is accepted (44 R270). -/
theorem performJsr_of_accepted {r : State} (h : r.storeRefused (r.get .sp - 1) = false) :
    performJsr r = .ok ((r.pushed (r.get .pc)).setReg .pc r.scratch.va) := by
  rw [performJsr, State.pushWord_eq_pushed _ h, Effect.andThen_ok, State.pushed_scratch]

/-- A refused push leaves PC (44 R270, 92 D13). -/
theorem performJsr_of_refused {r : State} (h : r.storeRefused (r.get .sp - 1) = true) :
    performJsr r = .raised (.protection (r.get .sp - 1)) (r.setReg .sp (r.get .sp - 1)) := by
  rw [performJsr, r.pushWord_of_refused _ h, Effect.andThen_raised]

/-- INT goes to its handler where both pushes are accepted (44 R272). -/
theorem performInt_of_accepted {r : State} (h₁ : r.storeRefused (r.get .sp - 1) = false)
    (h₂ : r.storeRefused (r.get .sp - 2) = false) :
    performInt r =
      .ok ((((r.pushed (r.get .pc)).pushed (r.get .a)).setReg .a r.scratch.va).setReg .pc (r.get .ia)) := by
  have h₂' : (r.pushed (r.get .pc)).storeRefused ((r.pushed (r.get .pc)).get .sp - 1) = false := by
    rw [State.pushed_get_sp_sub_one, State.pushed_storeRefused, h₂]
  rw [performInt, State.pushWord_eq_pushed _ h₁, Effect.andThen_ok, State.pushWord_eq_pushed _ h₂', Effect.andThen_ok]
  simp

/-- A refused first push leaves all but SP (44 R272, 92 D13). -/
theorem performInt_of_refused_first {r : State} (h : r.storeRefused (r.get .sp - 1) = true) :
    performInt r = .raised (.protection (r.get .sp - 1)) (r.setReg .sp (r.get .sp - 1)) := by
  rw [performInt, r.pushWord_of_refused _ h, Effect.andThen_raised]

/-- A refused second push leaves the first (44 R272, 92 D13). -/
theorem performInt_of_refused_second {r : State} (h₁ : r.storeRefused (r.get .sp - 1) = false)
    (h₂ : r.storeRefused (r.get .sp - 2) = true) :
    performInt r =
      .raised (.protection (r.get .sp - 2)) ((r.pushed (r.get .pc)).setReg .sp (r.get .sp - 2)) := by
  have hsp := r.pushed_get_sp_sub_one (r.get .pc)
  have h₂' : (r.pushed (r.get .pc)).storeRefused ((r.pushed (r.get .pc)).get .sp - 1) = true := by
    rw [hsp, State.pushed_storeRefused, h₂]
  rw [performInt, State.pushWord_eq_pushed _ h₁, Effect.andThen_ok, State.pushWord_of_refused _ _ h₂', hsp,
    Effect.andThen_raised]

/-! ### What a special instruction leaves unchanged -/

/-- The later state comes from the earlier one by accepted write-backs to allowed targets alone. -/
def State.WroteWithin (allowed : Address → Prop) : State → State → Prop :=
  Relation.ReflTransGen (fun s t => ∃ target v, allowed target ∧ t = s.written target v)

section
variable {allowed : Address → Prop} {s t u : State}

theorem State.wroteWithin_refl (s : State) : s.WroteWithin allowed s := Relation.ReflTransGen.refl

theorem State.WroteWithin.trans (h : s.WroteWithin allowed t) (h' : t.WroteWithin allowed u) :
    s.WroteWithin allowed u := Relation.ReflTransGen.trans h h'

theorem State.wroteWithin_written (s : State) {target : Address} (v : Word) (h : allowed target) :
    s.WroteWithin allowed (s.written target v) := Relation.ReflTransGen.single ⟨target, v, h, rfl⟩

theorem State.WroteWithin.setReg (h : s.WroteWithin allowed t) {q : Reg} (v : Word) (hq : allowed (.register q)) :
    s.WroteWithin allowed (t.setReg q v) := h.trans (t.wroteWithin_written v hq)

/-- A register that may not be written holds what it held. -/
theorem State.WroteWithin.get_eq (h : s.WroteWithin allowed t) {q : Reg} (hq : ¬ allowed (.register q)) :
    t.get q = s.get q := by
  induction h with
  | refl => rfl
  | tail _ hstep ih =>
    obtain ⟨target, v, hallowed, rfl⟩ := hstep
    rw [State.written_get, if_neg (fun htarget : target = .register q => hq (htarget ▸ hallowed)), ih]

/-- A write-back, before a change of the memory, adds its target to what may be touched. -/
theorem memoryFrame_written {target : Address} {v : Word} {stored : Word → Prop}
    (hframe : MemoryFrame (s.written target v) t stored) (htarget : ∀ ad, target = .memory ad → stored ad) :
    MemoryFrame s t stored := by
  obtain ⟨hbacking, hload, hprot, hbounds, hrunning⟩ := hframe
  refine ⟨fun ad hne => ?_, fun ad hne hquiet => ?_, hprot.trans (s.written_prot _ _),
    hbounds.trans (s.written_bounds _ _), hrunning.trans (s.written_running _ _)⟩
  · rw [hbacking ad hne, State.written_backing_read, if_neg fun hstored => hne (htarget ad hstored.1)]
  · obtain ⟨hquiet', hload'⟩ := s.written_quiet target v ad (mt (htarget ad) hne) hquiet
    exact (hload ad hne hquiet').trans hload'

/-- The memory is that before the write-backs but for the addresses they may go to. -/
theorem State.WroteWithin.memoryFrame (h : s.WroteWithin allowed t)
    (hframe : MemoryFrame t u (fun ad => allowed (.memory ad))) : MemoryFrame s u (fun ad => allowed (.memory ad)) := by
  induction h using Relation.ReflTransGen.head_induction_on with
  | refl => exact hframe
  | head hstep _ ih =>
    obtain ⟨target, v, hallowed, rfl⟩ := hstep
    exact memoryFrame_written ih fun ad htarget => htarget ▸ hallowed

end

/-- The operation writes to allowed targets only, up to its end or up to the access that is refused (60 R303). -/
def Effect.WritesWithin (allowed : Address → Prop) (s : State) : Effect → Prop
  | .ok t => s.WroteWithin allowed t
  | .raised _ t => s.WroteWithin allowed t

section
variable {allowed : Address → Prop} {s : State}

theorem Effect.WritesWithin.of_wroteWithin {t : State} {x : Effect} (h : s.WroteWithin allowed t)
    (hx : x.WritesWithin allowed t) : x.WritesWithin allowed s := by
  cases x with
  | ok u => exact State.WroteWithin.trans h hx
  | raised e u => exact State.WroteWithin.trans h hx

theorem Effect.WritesWithin.andThen {x : Effect} {next : State → Effect} (hx : x.WritesWithin allowed s)
    (hnext : ∀ t, x = .ok t → (next t).WritesWithin allowed t) : (x.andThen next).WritesWithin allowed s := by
  cases x with
  | ok t => exact Effect.WritesWithin.of_wroteWithin hx (hnext t rfl)
  | raised e t => exact hx

theorem State.commit_writesWithin (s : State) {target : Address} (v : Word) (h : allowed target) :
    (s.commit target v).WritesWithin allowed s := by
  rcases s.accepts_or_refused target with haccepts | ⟨ad, rfl, hrefused⟩
  · rw [s.commit_of_accepts target v haccepts]
    exact s.wroteWithin_written v h
  · rw [s.commit_of_refused ad v hrefused]
    exact s.wroteWithin_refl

theorem State.pushWord_writesWithin (v : Word) (hsp : allowed (.register .sp))
    (hstack : allowed (.memory (s.get .sp - 1))) : (s.pushWord v).WritesWithin allowed s :=
  have hlowered : (s.setReg .sp (s.get .sp - 1)).get .sp = s.get .sp - 1 := s.setReg_get .sp .sp _
  Effect.WritesWithin.of_wroteWithin (s.wroteWithin_refl.setReg _ hsp)
    (State.commit_writesWithin _ v (hlowered ▸ hstack))

end

/-- After an accepted push the next one goes two words below the SP before it (44 R272). -/
theorem State.get_sp_of_pushWord {s t : State} {v : Word} (h : s.pushWord v = .ok t) : t.get .sp - 1 = s.get .sp - 2 := by
  cases hrefused : s.storeRefused (s.get .sp - 1) with
  | true => rw [s.pushWord_of_refused v hrefused] at h; cases h
  | false => rw [State.pushWord_eq_pushed v hrefused] at h; cases h; exact s.pushed_get_sp_sub_one v

/-- The targets a special instruction may write back to in its completing cycle `r` (44 R270 to R277). -/
def specialTargets (r : State) (i : Instr) : Address → Prop
  | .none => True
  | .register q => q = .pc ∨ specialWrites r i q
  | .memory ad => specialStores r i ad

/-- IAG and HWN may write back to the target of a, whatever it is (44 R273, R275). -/
theorem specialTargets_addrA {r : State} {i : Instr} (hwrites : specialWrites r i = fun q => r.scratch.addrA = .register q)
    (hstores : specialStores r i = fun ad => r.scratch.addrA = .memory ad) : specialTargets r i r.scratch.addrA := by
  cases htarget : r.scratch.addrA with
  | none => trivial
  | register q => exact .inr (hwrites ▸ htarget)
  | memory ad => exact (congrFun hstores ad).mpr htarget

theorem performJsr_writesWithin (a : Operand) (r : State) :
    (performJsr r).WritesWithin (specialTargets r (.jsr a)) r := by
  have hsp : specialTargets r (.jsr a) (.register .sp) := .inr rfl
  have hstack : specialTargets r (.jsr a) (.memory (r.get .sp - 1)) := rfl
  exact (State.pushWord_writesWithin _ hsp hstack).andThen fun t _ => t.wroteWithin_refl.setReg _ (.inl rfl)

theorem performInt_writesWithin (a : Operand) (r : State) :
    (performInt r).WritesWithin (specialTargets r (.int a)) r := by
  have hsp : specialTargets r (.int a) (.register .sp) := .inr (.inl rfl)
  refine (State.pushWord_writesWithin _ hsp (.inl rfl)).andThen fun t ht =>
    (State.pushWord_writesWithin _ hsp (.inr ?_)).andThen fun u _ =>
      (u.wroteWithin_refl.setReg _ (.inr (.inr rfl))).setReg _ (.inl rfl)
  exact State.get_sp_of_pushWord ht

theorem performHwq_writesWithin (a : Operand) (r : State) :
    (performHwq r).WritesWithin (specialTargets r (.hwq a)) r := by
  have hcleared : ∀ q, q = .a ∨ q = .b ∨ q = .c ∨ q = .x ∨ q = .y → specialTargets r (.hwq a) (.register q) :=
    fun _ hq => .inr hq
  exact ((((r.wroteWithin_refl.setReg 0 (hcleared .a (by simp))).setReg 0 (hcleared .b (by simp))).setReg 0
    (hcleared .c (by simp))).setReg 0 (hcleared .x (by simp))).setReg 0 (hcleared .y (by simp))

/-- The completing cycle of a special instruction writes to its targets only (44 R270 to R277). -/
theorem performInstr_special_writesWithin {i : Instr} {a : Operand} (hops : i.operands = (none, a)) (r : State) :
    ∃ x : Effect, performInstr i r = x.complete ∧ x.WritesWithin (specialTargets r i) r := by
  cases i with
  | jsr a => exact ⟨_, rfl, performJsr_writesWithin a r⟩
  | int a => exact ⟨_, rfl, performInt_writesWithin a r⟩
  | iag | hwn => exact ⟨_, rfl, r.commit_writesWithin _ (specialTargets_addrA rfl rfl)⟩
  | ias => exact ⟨performIas r, rfl, r.wroteWithin_refl.setReg _ (.inr rfl)⟩
  | hwq a => exact ⟨_, rfl, performHwq_writesWithin a r⟩
  | hcf => exact ⟨performHcf r, rfl, r.wroteWithin_refl⟩
  | hwi => exact ⟨performHwi r, rfl, r.wroteWithin_refl⟩
  | _ => cases hops

/-- From the completing cycle on, the writes of a special instruction, and what its last cycle or its error changes, which
is no register and no memory. -/
theorem exec_special_writesWithin {i : Instr} {a : Operand} {s t : State} (hops : i.operands = (none, a))
    (h : exec i s = .next t) :
    let r := specialAtCompletion (baseCost i) a s
    ∃ u, r.WroteWithin (specialTargets r i) u ∧ (∀ q, t.get q = u.get q) ∧ ∀ stored, MemoryFrame u t stored := by
  intro r
  obtain ⟨x, hx, hwrote⟩ := performInstr_special_writesWithin hops r
  rw [exec_of_operand hops rfl, hx] at h
  cases x with
  | ok u =>
    cases h
    exact ⟨u, hwrote, u.endCycle_get, fun stored => u.endCycle_keepsMemory.memoryFrame (memoryFrame_refl _ stored)⟩
  | raised e u =>
    cases h
    exact ⟨u, hwrote, fun _ => rfl, memoryFrame_raise u e⟩

/-- Only PC, and SP by POP, are changed before the completing cycle (40 R136). -/
theorem specialAtCompletion_get_of_kept {cost : Nat} {a : Operand} {q : Reg} (s : State) (hpc : q ≠ .pc)
    (hsp : q = .sp → a.movesSp = false) : (specialAtCompletion cost a s).get q = s.get q := by
  simp only [specialAtCompletion_get, State.decodeA_get, if_neg hpc]
  by_cases hq : q = .sp
  · have ha := hsp hq
    simp only [Operand.movesSp, Bool.or_eq_false_iff, decide_eq_false_iff_not] at ha
    simp [hq, ha]
  · simp only [if_neg hq]

end Sys2Proof.Machine

namespace Sys2Proof.Proofs

open Sys2Proof.Machine

/-- Settles O24: the push comes first, and the jump follows it only where it is accepted. -/
theorem jsrPushesPcAndJumps : Obligations.JsrPushesPcAndJumps := by
  intro a s
  have hfinished := fun u => exec_special_of_finished (i := .jsr a) (cost := 3) (s := s) (u := u) rfl rfl
  have hraised := fun u e => exec_special_of_raised (i := .jsr a) (cost := 3) (s := s) (u := u) (e := e) rfl rfl
  -- of the completing state nothing else is used: named, it is not computed again for each field below
  generalize specialAtCompletion 3 a s = r at hfinished hraised ⊢
  refine ⟨encodesAs_of_specialRow (a := a) rfl, fun haccepted => ?_, fun hrefused => ?_⟩
  · obtain ⟨hexec, hstep, herr, hcycles⟩ := hfinished _ (congrArg Effect.complete (performJsr_of_accepted haccepted))
    refine ⟨_, hexec, hstep, herr, hcycles, fun q => ?_, stored_pushed_endCycle r (r.get .pc) .pc r.scratch.va⟩
    rw [State.endCycle_get, State.setReg_get, State.pushed_get]
    cases q <;> simp
  · have hexec := hraised _ _ (congrArg Effect.complete (performJsr_of_refused hrefused))
    exact ⟨_, hexec, rfl, fun q => r.setReg_get .sp q _, rfl, rfl, rfl⟩

/-- Settles O25: the completing cycle raises in the state its operand left, and is counted. -/
theorem hcfLatchesHaltError : Obligations.HcfLatchesHaltError := by
  intro a s
  have hcycles := fun t ht => (cyclesAreBaseCostPlusNextWords (.hcf a) a s t ht).2 rfl
  have hexec := exec_special_of_raised (i := .hcf a) (cost := 9) (s := s) rfl rfl rfl
  generalize specialAtCompletion 9 a s = r at hexec ⊢
  exact ⟨encodesAs_of_specialRow (a := a) rfl, ⟨_, hexec, rfl, fun _ => rfl, rfl, rfl, rfl⟩, hcycles⟩

/-- Settles O26: two pushes, the second from the SP the first left; the jump follows only where both are accepted. -/
theorem intPushesPcAndAThenJumpsToIa : Obligations.IntPushesPcAndAThenJumpsToIa := by
  intro a s
  have hfinished := fun u => exec_special_of_finished (i := .int a) (cost := 4) (s := s) (u := u) rfl rfl
  have hraised := fun u e => exec_special_of_raised (i := .int a) (cost := 4) (s := s) (u := u) (e := e) rfl rfl
  generalize specialAtCompletion 4 a s = r at hfinished hraised ⊢
  intro r sp1 sp2
  have hsp : (r.pushed (r.get .pc)).get .sp - 1 = sp2 := r.pushed_get_sp_sub_one (r.get .pc)
  refine ⟨encodesAs_of_specialRow (a := a) rfl, fun haccepted₁ haccepted₂ => ?_, fun hrefused => ?_,
    fun haccepted hrefused => ?_⟩
  · obtain ⟨hexec, hstep, herr, hcycles⟩ :=
      hfinished _ (congrArg Effect.complete (performInt_of_accepted haccepted₁ haccepted₂))
    refine ⟨_, hexec, hstep, herr, hcycles, fun q => ?_, fun ad => ?_, ?_, ?_⟩
    · rw [State.endCycle_get, State.setReg_get, State.setReg_get, State.pushed_get, hsp, State.pushed_get]
      cases q <;> simp [r]
    · rw [State.endCycle_backing, State.setReg_backing, State.setReg_backing, State.pushed_backing_read, hsp,
        State.pushed_isMapped, State.pushed_backing_read]
    · exact (State.pushed_prot _ _).trans (r.pushed_prot _)
    · have hpolled := ((r.pushed (r.get .pc)).pushed (r.get .a)).polled_endCycle
      rw [State.pushed_mmap, hsp, State.pushed_mmap] at hpolled
      exact hpolled
  · have hexec := hraised _ _ (congrArg Effect.complete (performInt_of_refused_first hrefused))
    exact ⟨_, hexec, rfl, fun q => r.setReg_get .sp q sp1, rfl, rfl, rfl⟩
  · have hexec := hraised _ _ (congrArg Effect.complete (performInt_of_refused_second haccepted hrefused))
    refine ⟨_, hexec, rfl, fun q => ?_, r.pushed_backing_read (r.get .pc), r.pushed_prot _, r.pushed_mmap _⟩
    rw [State.countCycle_get, State.raise_get, State.setReg_get, State.pushed_get]
    by_cases hq : q = .sp <;> simp [hq, sp2]

/-- Settles O27: the completing cycle writes IA back. -/
theorem iagWritesIaToOperand : Obligations.IagWritesIaToOperand :=
  writesA_of_row (fun _ => rfl) (fun _ => rfl) fun _ _ => rfl

/-- Settles O28: the completing cycle writes IA alone. -/
theorem iasSetsIa : Obligations.IasSetsIa :=
  writesRegisters_of_row (fun _ => rfl) (fun _ => rfl) (fun _ _ => rfl) (fun r q => r.setReg_get .ia q _)
    (fun r => r.setReg_keepsMemory .ia _) fun _ => rfl

/-- Settles O29: the completing cycle writes 0 back. -/
theorem hwnWritesZeroToOperand : Obligations.HwnWritesZeroToOperand :=
  writesA_of_row (fun _ => rfl) (fun _ => rfl) fun _ _ => rfl

/-- Settles O30: the completing cycle writes the five registers alone. -/
theorem hwqClearsAToY : Obligations.HwqClearsAToY :=
  writesRegisters_of_row (fun _ => rfl) (fun _ => rfl) (fun _ _ => rfl)
    (fun r q => by simp only [State.setReg_get]; cases q <;> simp)
    (fun r => State.keepsMemory_of_eq rfl rfl rfl rfl rfl rfl) fun _ => rfl

/-- Settles O31: the completing cycle leaves the state its operand left. -/
theorem hwiOnlyResolvesItsOperand : Obligations.HwiOnlyResolvesItsOperand :=
  writesRegisters_of_row (after := id) (fun _ => rfl) (fun _ => rfl) (fun _ _ => rfl) (fun _ _ => rfl)
    State.KeepsMemory.refl fun _ => rfl

/-- Settles O37: up to the completing cycle only PC and SP move and the memory is kept; from there it is writes to the
instruction's targets, and an error or the last cycle. -/
theorem specialsLeaveTheRestUnchanged : Obligations.SpecialsLeaveTheRestUnchanged := by
  intro i a s t hops h r
  obtain ⟨u, hwrote, hget, hframe⟩ := exec_special_writesWithin hops h
  refine ⟨fun q hpc hq hsp => ?_,
    (specialAtCompletion_keepsMemory (baseCost i) a s).memoryFrame (hwrote.memoryFrame (hframe _))⟩
  have hnot : ¬ specialTargets r i (.register q) := not_or.mpr ⟨hpc, hq⟩
  calc t.get q = u.get q := hget q
    _ = r.get q := hwrote.get_eq hnot
    _ = s.get q := specialAtCompletion_get_of_kept s hpc hsp

end Sys2Proof.Proofs
end

section
/-! PROOFS. The keyboard's poll (spec 60 R317, R318): what the ring takes of each event on offer (`Device.poll_down`,
`Device.poll_up`), and which of the mapped regions is polled (`pollRegions_append_keyboard`). -/

namespace Sys2Proof.Machine

/-! ### The event on offer (60 R317) -/

section
variable (ring : Vector Word 16) (cursor : Fin 16) (accepted : List Key) (k : Key)

/-- The ring takes an event in a zero slot under the cursor, if the event may be sent; else nothing changes. -/
theorem Device.poll_some (e : KeyEvent) :
    (Device.keyboard ring cursor accepted).poll (some e) =
      if ring[cursor] = 0 ∧ eventSendable accepted e then
        .keyboard (ring.set cursor (truncNat (eventCode e))) (cursor + 1) (acceptedAfter accepted e)
      else .keyboard ring cursor accepted := by
  simp only [Device.poll, ite_and]

/-- A key down may always be sent. -/
theorem Device.poll_down :
    (Device.keyboard ring cursor accepted).poll (some (.down k)) =
      if ring[cursor] = 0 then
        .keyboard (ring.set cursor (truncNat (keyCode k))) (cursor + 1) (accepted.insert k)
      else .keyboard ring cursor accepted := by
  rw [Device.poll_some]
  simp only [eventSendable, and_true, eventCode, acceptedAfter]

/-- A key up may be sent if the ring took the key's down before (log entry 18). -/
theorem Device.poll_up :
    (Device.keyboard ring cursor accepted).poll (some (.up k)) =
      if ring[cursor] = 0 ∧ k ∈ accepted then
        .keyboard (ring.set cursor (truncNat (keyCode k ||| 0x100))) (cursor + 1) (accepted.filter (· ≠ k))
      else .keyboard ring cursor accepted := by
  rw [Device.poll_some]
  simp only [eventSendable, decide_eq_true_eq, eventCode, acceptedAfter]

end

/-! ### The region that is polled (60 R318) -/

/-- The first keyboard is polled, whatever lies before and after it (log entry 11). -/
theorem pollRegions_append_keyboard (event : Option KeyEvent) {before later : List MapRegion} {r : MapRegion}
    (hbefore : before.all (fun r => !r.dev.isKeyboard) = true) (hr : r.dev.isKeyboard = true) :
    pollRegions event (before ++ r :: later) = before ++ { r with dev := r.dev.poll event } :: later := by
  induction before with
  | nil => simp only [List.nil_append, pollRegions, hr, if_true]
  | cons g gs ih =>
    obtain ⟨hg, hgs⟩ := Bool.and_eq_true_iff.mp hbefore
    rw [Bool.not_eq_true'] at hg
    simp only [List.cons_append, pollRegions, hg, Bool.false_eq_true, if_false, ih hgs]

end Sys2Proof.Machine

namespace Sys2Proof.Proofs

open Sys2Proof.Machine

/-- Settles O58: the first keyboard is polled with the event drawn, and for each event the ring's rule says what it takes. -/
theorem pollFillsOnlyAZeroSlotAtTheCursor : Obligations.PollFillsOnlyAZeroSlotAtTheCursor := by
  intro s before later start length ring cursor accepted hmap hbefore
  refine ⟨?_, rfl, rfl, rfl, fun _ => rfl, fun _ => rfl⟩
  rw [State.poll_mmap, hmap, pollRegions_append_keyboard _ hbefore rfl]
  refine congrArg (fun d => before ++ ⟨start, length, d⟩ :: later) ?_
  cases Config.keyEvent s.polls with
  | none => exact Device.poll_none _
  | some e =>
    cases e with
    | down k => exact Device.poll_down ring cursor accepted k
    | up k => exact Device.poll_up ring cursor accepted k

end Sys2Proof.Proofs
end

section
/-! PROOFS. The host's loader (spec 70 R352): where the words of an image land in the backing store, and what the loader
answers while the machine is idle. -/

namespace Sys2Proof.Machine

/-! ### The words of an image in the backing store -/

/-- Outside the image's range the loader writes nothing. -/
theorem read_loadWords_of_outside (m : WordMem) {start ad : Nat} {words : List Word}
    (h : ad < start ∨ start + words.length ≤ ad) :
    WordMem.read (loadWords m start words) ad = WordMem.read m ad := by
  induction words generalizing m start with
  | nil => rfl
  | cons w ws ih =>
    rw [List.length_cons] at h
    have hne : ad ≠ start := by omega
    rw [loadWords, ih _ (by omega), WordMem.read_write, if_neg hne]

/-- Each word of the image lands at its offset: no later word of the image is written over it. -/
theorem read_loadWords_add (m : WordMem) (start : Nat) {words : List Word} {k : Nat} (h : k < words.length) :
    WordMem.read (loadWords m start words) (start + k) = words[k] := by
  induction words generalizing m start k with
  | nil => cases h
  | cons w ws ih =>
    rw [loadWords]
    cases k with
    | zero =>
      rw [Nat.add_zero start, read_loadWords_of_outside _ (.inl (Nat.lt_add_one start)), WordMem.read_write, if_pos rfl]
      rfl
    | succ k =>
      rw [← Nat.succ_add_eq_add_succ start k]
      exact ih _ _ (Nat.lt_of_succ_lt_succ h)

/-! ### The loader while idle -/

section

variable {s : State} {words : List Word} {offset : Nat}

/-- An image that runs past the address space is refused, and none of it is written. -/
theorem loadProgram_of_past (hidle : s.running = false) (hpast : Config.memorySize < offset + words.length) :
    loadProgram words offset s = .error .outOfBounds := by
  rw [loadProgram, hidle, if_neg Bool.false_ne_true, if_pos hpast]

/-- An image that fits changes the backing store only, whatever is protected or mapped. -/
theorem loadProgram_of_fits (hidle : s.running = false) (hfits : offset + words.length ≤ Config.memorySize) :
    loadProgram words offset s = .ok { s with backing := loadWords s.backing offset words } := by
  rw [loadProgram, hidle, if_neg Bool.false_ne_true, if_neg (Nat.not_lt.mpr hfits)]

end

end Sys2Proof.Machine

namespace Sys2Proof.Proofs

open Sys2Proof.Machine

/-- Settles O59: an image that fits goes word by word into the backing store, and what the store answers is read off the
image by induction on its words. -/
theorem loaderWritesTheBackingStoreOnly : Obligations.LoaderWritesTheBackingStoreOnly := by
  intro s words offset hidle
  refine ⟨loadProgram_of_past hidle, fun hfits => ⟨_, loadProgram_of_fits hidle hfits, rfl, ?_, ?_⟩⟩
  · exact fun k hk => read_loadWords_add s.backing offset hk
  · exact fun ad had => read_loadWords_of_outside s.backing had

end Sys2Proof.Proofs
end
